-- ==== Sys2Proof/Word.lean ====
section
/-! DEFINITION. The widths the spec fixes, as names (rule R10 of spec/00_scope.md, rules R81, R92, R95 of
spec/30_encoding.md). Addresses and data units are plain numbers, since `ADDR_W` and `DATA_W` are parameters and
the block never computes with them (notes/assumptions/14.md). -/

namespace Sys2Proof

/-- A command word on the `cmd` port (R81) and a response word on the `resp` port (R87). -/
abbrev CmdWord := BitVec 64

/-- A bus kind code (R95). -/
abbrev KindCode := BitVec 3

/-- A micro-op word, `MOP_W` = 16 (R92). -/
abbrev MopWord := BitVec 16

/-- A program reference, `PID_W` = 16; 0 is "no program" (R28). -/
abbrev Pid := BitVec 16

/-- The objective cycles a handler returns, `COST_W` = 16 (R54). -/
abbrev Cost := BitVec 16

/-- A class code of the decode classifier (R96). -/
abbrev ClassCode := BitVec 8

/-- The 63-bit payload of a response (R87). -/
abbrev Payload := BitVec 63

end Sys2Proof
end

