-- ==== Sys2Proof/Config.lean ====
section
/-! DEFINITION. What is fixed when the block is built, and what the spec leaves open.
`Params` holds the parameters of rule R10 (spec/00_scope.md) as plain data; the `opaque` constants of the
namespace `Config` are the free values: they have no body, so no proof can learn a value of one. -/

namespace Sys2Proof

/-! ## The ports' vocabulary (spec/30_encoding.md R93 to R98) -/

/-- The five kinds of rule R95; `none` is never driven on the bus. -/
inductive BusKind where
  | none | read | readOpcode | write | ready
  deriving DecidableEq, Repr, Inhabited

/-- The kinds a micro-step can ask for (R25); `Ready` comes only from the arbiter. -/
inductive AccessKind where
  | read | readOpcode | write
  deriving DecidableEq, Repr, Inhabited

/-- One record on the bus port (R93); `wdata` is 0 unless the kind is Write. -/
structure BusOp where
  kind : BusKind
  addr : Nat
  wdata : Nat
  deriving DecidableEq, Repr, Inhabited

/-- A handler's answer to one operation (R52). -/
structure BusAnswer where
  cost : Cost
  rdata : Nat
  deriving DecidableEq, Repr, Inhabited

/-- One transfer on a port of rule R94, as the log keeps it. -/
inductive Event where
  /-- a command word taken from the `cmd` port -/
  | cmd (w : CmdWord)
  /-- a response word on the `resp` port (R87) -/
  | resp (w : CmdWord)
  /-- a bus operation with the handler's answer (R93) -/
  | bus (op : BusOp) (ans : BusAnswer)
  /-- a pulse of the flush strobe (R98) -/
  | flush
  /-- a perform event (R97) -/
  | perform (j : Nat)
  /-- the reset line sampled as asserted (R240) -/
  | rst
  deriving DecidableEq, Repr, Inhabited

/-! ## The sequencer parameter SEQ (R15, R25, R111) -/

/-- `ARCH_T`: the realised processor's registers, opcode and operand units as a list of numbers
(notes/assumptions/1.md). -/
abbrev Arch := List Nat

/-- `MicroStep` of rule R25 over `n + 1` resume points. -/
inductive MicroStep (n : Nat) where
  /-- one bus operation; `k` is the continuation, given the data unit -/
  | bus (kind : AccessKind) (addr wdata : Nat) (k : Arch → Nat → Arch × Fin (n + 1))
  /-- the source's "None" kind: no bus operation -/
  | int (k : Arch → Arch × Fin (n + 1))
  deriving Inhabited

/-- `SEQ = (NRP, ARCH_T, ARCH_RESET, micro)` (R25). `NRP` is `lastRp + 1`, so `NRP ≥ 1`; by the types, `micro` is
total and every continuation stays inside `Fin NRP` (R111 a, b). -/
structure Sequencer where
  lastRp : Nat
  archReset : Arch
  micro : Fin (lastRp + 1) → Arch → MicroStep lastRp

/-- Which sequencer the block is built with: the open parameter, or a fixture of spec/95_test_vectors.md. -/
inductive SeqChoice where
  /-- the OPEN parameter `SEQ` (R7, R15): uninterpreted -/
  | param
  /-- REFSEQ, 95_test_vectors.md 1.1 -/
  | refseq
  /-- LOOPSEQ, 95_test_vectors.md 1.4 -/
  | loopseq
  deriving DecidableEq, Repr, Inhabited

/-! ## The decode classifier's parameters (R180 to R184) -/

/-- A named operation of the classifier. The source names `AND` (data processing, field 0), the multiply
variants and `Undefined`; the rest is open (R96). -/
inductive Op where
  /-- a data-processing operation with its field value; `dp 0` is `AND` (R183) -/
  | dp (f : Nat)
  /-- a multiply variant (R184) -/
  | multiply (acc s : Bool)
  /-- any other operation a table may name -/
  | other (n : Nat)
  /-- the source's `Operation::Undefined` -/
  | undefined
  deriving DecidableEq, Repr, Inhabited

/-- An entry of `DECODE_PATTERNS` (R181). -/
structure Pattern where
  mask : BitVec 8
  value : BitVec 8
  op : Op
  deriving DecidableEq, Repr, Inhabited

/-- One conjunct set of a refinement predicate: the word's bits under `mask` equal `value`. -/
structure Cube where
  mask : BitVec 32
  value : BitVec 32
  deriving DecidableEq, Repr, Inhabited

/-! ## The parameters (R10) -/

/-- The implementation parameters of rule R10 as plain data. Nothing in the block writes one
(notes/assumptions/2.md). -/
structure Params where
  /-- `ADDR_W` -/
  addrW : Nat
  /-- `DATA_W` -/
  dataW : Nat
  /-- `SEQ`, and with it `NRP` -/
  seq : SeqChoice
  /-- `NONE_LIMIT` -/
  noneLimit : Nat
  /-- `LAST_ADDR_RESET`, a draw below `2 ^ addrW` (R24) -/
  lastAddrReset : Nat
  /-- `DISPATCH_N` -/
  dispatchN : Nat
  /-- `CONVERT` (R171): `none` is the identity, `some l` the table `l` of `DISPATCH_N` indices -/
  convert : Option (List Nat)
  /-- `PERFORM_M` -/
  performM : Nat
  /-- `DEFER_D`: all slots, the current one among them (C4) -/
  deferD : Nat
  /-- `DEFER_VW` -/
  deferVW : Nat
  /-- `DECODE_FIELD`: the eight bit positions of the instruction word, index bit 0 first -/
  decodeField : List Nat
  /-- `DECODE_PATTERNS`, in order -/
  decodePatterns : List Pattern
  /-- `DECODE_REFINE`: an operation's predicate, true when some cube of the list holds -/
  decodeRefine : List (Op × List Cube)
  /-- `CLASS_CODE` of the operations other than Undefined (R96) -/
  classCode : List (Op × ClassCode)
  deriving DecidableEq, Repr, Inhabited

/-! ## The free values -/

/-- The OPEN parameter `NRP`, less one (R10, D11): uninterpreted (notes/assumptions/1.md). -/
opaque Config.seqLastRp : Nat

/-- The OPEN parameter `ARCH_RESET` (R25, D11): uninterpreted (notes/assumptions/1.md). -/
opaque Config.seqArchReset : Arch

/-- The OPEN parameter `micro` (R7, R15, R25, D11): uninterpreted (notes/assumptions/1.md). -/
opaque Config.seqMicro : Fin (Config.seqLastRp + 1) → Arch → MicroStep Config.seqLastRp

/-- The OPEN parameter `SEQ`, of those three parts (R15). -/
def Config.sequencer : Sequencer :=
  { lastRp := Config.seqLastRp, archReset := Config.seqArchReset, micro := Config.seqMicro }

/-- The draw `LAST_ADDR_RESET` that `State.reset` is built with (R24, D14): uninterpreted
(notes/assumptions/3.md). -/
opaque Config.lastAddrReset : Nat

/-- The value field of the `n`-th deferred slot left without an inserted value (R31, U25): uninterpreted
(notes/assumptions/4.md). -/
opaque Config.deferFree : Nat → BitVec 32

/-- The ready line an unnamed handler drives, in a course of the outside world and after the events of the log
(R58, U17): uninterpreted (notes/assumptions/5.md). -/
opaque Config.rdyDraw : Nat → List Event → Bool

/-- An unnamed handler's answer to an operation, in a course of the outside world and after the events of the log
(R58, U15, U16): uninterpreted (notes/assumptions/5.md). -/
opaque Config.handlerAnswer : Nat → List Event → BusOp → BusAnswer

end Sys2Proof
end

