-- ==== Sys2Proof/Machine/Fixtures.lean ====
section
/-! DEFINITION. The sequencer a block is built with, and the fixtures spec/95_test_vectors.md defines: REFSEQ (1.1),
LOOPSEQ (1.4), REFDEC (1.3), the program store PS (1.4) and the default parameters. They are the spec's own test
fixtures (D28, D42, D43), not a processor of the source. -/

namespace Sys2Proof.Machine

/-! ## REFSEQ (95_test_vectors.md 1.1) -/

/-- `ARCH_T` of REFSEQ. -/
structure RefArch where
  pc : BitVec 16
  a : BitVec 8
  opcode : BitVec 8
  opr : BitVec 8
  deriving DecidableEq, Repr

/-- REFSEQ's registers, in the order PC, A, OP, OPR; a missing number reads as 0. -/
def RefArch.ofArch (l : Arch) : RefArch :=
  { pc := BitVec.ofNat 16 (l.getD 0 0), a := BitVec.ofNat 8 (l.getD 1 0),
    opcode := BitVec.ofNat 8 (l.getD 2 0), opr := BitVec.ofNat 8 (l.getD 3 0) }

/-- The list form of REFSEQ's registers. -/
def RefArch.toArch (r : RefArch) : Arch := [r.pc.toNat, r.a.toNat, r.opcode.toNat, r.opr.toNat]

/-- Continuation at resume point 0: `OP <- d; PC <- PC + 1`, next 1. -/
def refFetch (l : Arch) (d : Nat) : Arch × Fin 6 :=
  let r := RefArch.ofArch l
  ({ r with opcode := BitVec.ofNat 8 d, pc := r.pc + 1 }.toArch, 1)

/-- Continuation at resume point 1: `OPR <- d; PC <- PC + 1`, then by `OP`. -/
def refOperand (l : Arch) (d : Nat) : Arch × Fin 6 :=
  let r := { RefArch.ofArch l with opr := BitVec.ofNat 8 d, pc := (RefArch.ofArch l).pc + 1 }
  match r.opcode.toNat with
  | 0x10 => ({ r with a := r.opr }.toArch, 0)
  | 0x20 => (r.toArch, 2)
  | 0x30 => (r.toArch, 3)
  | 0x40 => (r.toArch, 4)
  | 0x50 => (r.toArch, if r.a = 0 then 0 else 5)
  | 0x60 => ({ r with a := r.a - 1 }.toArch, 0)
  | _ => (r.toArch, 0)

/-- Continuation at resume point 2 (LDZ): `A <- d`. -/
def refLoad (l : Arch) (d : Nat) : Arch × Fin 6 :=
  ({ RefArch.ofArch l with a := BitVec.ofNat 8 d }.toArch, 0)

/-- Continuation at resume point 3 (STZ): nothing. -/
def refStore (l : Arch) (_ : Nat) : Arch × Fin 6 := (l, 0)

/-- Continuation at resume point 4 (ADZ): `A <- A + d`. -/
def refAdd (l : Arch) (d : Nat) : Arch × Fin 6 :=
  let r := RefArch.ofArch l
  ({ r with a := r.a + BitVec.ofNat 8 d }.toArch, 0)

/-- Continuation at resume point 5 (branch taken): `PC <- PC + sext_16(OPR)`. -/
def refBranch (l : Arch) : Arch × Fin 6 :=
  let r := RefArch.ofArch l
  ({ r with pc := r.pc + r.opr.signExtend 16 }.toArch, 0)

/-- `micro` of REFSEQ. -/
def refMicro (rp : Fin 6) (l : Arch) : MicroStep 5 :=
  let r := RefArch.ofArch l
  match rp.val with
  | 0 => .bus .readOpcode r.pc.toNat 0 refFetch
  | 1 => .bus .read r.pc.toNat 0 refOperand
  | 2 => .bus .read r.opr.toNat 0 refLoad
  | 3 => .bus .write r.opr.toNat r.a.toNat refStore
  | 4 => .bus .read r.opr.toNat 0 refAdd
  | _ => .int refBranch

/-- REFSEQ: six resume points, every register 0 at reset. -/
def refseq : Sequencer := { lastRp := 5, archReset := [0, 0, 0, 0], micro := refMicro }

/-- LOOPSEQ: one resume point, an internal step that repeats itself. -/
def loopseq : Sequencer :=
  { lastRp := 0, archReset := [], micro := fun _ _ => .int (fun l => (l, 0)) }

/-- The sequencer of a choice; the open parameter is uninterpreted. -/
def sequencerOf : SeqChoice → Sequencer
  | .param => Config.sequencer
  | .refseq => refseq
  | .loopseq => loopseq

/-- `NRP`, the number of resume points (R10, R21). -/
def nrpOf (c : SeqChoice) : Nat := (sequencerOf c).lastRp + 1

/-! ## REFDEC (95_test_vectors.md 1.3) -/

/-- The refinement of every multiply class: bits [7:4] are 0b1001 (R184). -/
def multiplyRefine : List Cube := [{ mask := 0x000000F0, value := 0x00000090 }]

/-- The four multiply variants. -/
def multiplyOps : List Op :=
  [.multiply false false, .multiply false true, .multiply true false, .multiply true true]

/-- REFDEC's ordered patterns, the two entries whose operation depends on the index written once for each
operation: `AND`; the multiply variants of index 0 to 3; `dp f` for index bits [7:6] = 0 and [4:1] = f. -/
def refPatterns : List Pattern :=
  { mask := 0xFF, value := 0x00, op := .dp 0 } ::
    ((List.range 4).map fun i =>
      { mask := 0xFF, value := BitVec.ofNat 8 i, op := .multiply (i.testBit 1) (i.testBit 0) }) ++
    ((List.range 16).map fun f =>
      { mask := 0xDE, value := BitVec.ofNat 8 (2 * f), op := .dp f })

/-- REFDEC's `CLASS_CODE`: `dp f` is f, a multiply is 0x10 with `acc` in bit 1 and `s` in bit 0. -/
def refClassCode : List (Op × ClassCode) :=
  ((List.range 16).map fun f => (.dp f, BitVec.ofNat 8 f)) ++
    ((List.range 4).map fun i =>
      (.multiply (i.testBit 1) (i.testBit 0), BitVec.ofNat 8 (0x10 + i)))

/-! ## The default parameters and the program store PS (95_test_vectors.md 1.4) -/

/-- The parameters `State.reset` is built with: the defaults of R10 where the spec gives one, REFDEC and the
deferred pipeline of 95_test_vectors.md 1.4 where it leaves the parameter open, and the open parameter `SEQ`
(notes/assumptions/2.md). -/
def defaultParams : Params :=
  { addrW := 16
    dataW := 8
    seq := .param
    noneLimit := nrpOf .param
    lastAddrReset := Config.lastAddrReset % 2 ^ 16
    dispatchN := 2048
    convert := none
    performM := 2048
    deferD := 2
    deferVW := 8
    decodeField := [20, 21, 22, 23, 24, 25, 26, 27]
    decodePatterns := refPatterns
    decodeRefine := multiplyOps.map fun op => (op, multiplyRefine)
    classCode := refClassCode }

/-- The parameters of the vectors that run REFSEQ, with the draw `LAST_ADDR_RESET` fixed to 0x1234. -/
def refParams : Params :=
  { defaultParams with seq := .refseq, noneLimit := 6, lastAddrReset := 0x1234 }

/-- The program store PS. -/
def storePS : List (Nat × List MopWord) :=
  [(1, [0x0001, 0x0002, 0xFFFF]), (2, [0x0A0A, 0xFFFF]), (3, [0xFFFF]), (4, [0x0004, 0xFFFF]),
   (5, [0xFFFF]), (7, [0x0003])]

end Sys2Proof.Machine
end

