-- ==== Sys2Proof/Syntax.lean ====
section
/-! DEFINITION. The instructions of spec/opcode_table.json, one constructor for each of its sixteen rows, and the
encoded words that carry them (spec/30_encoding.md R80). -/

namespace Sys2Proof

/-- The rows of spec/opcode_table.json: ten host commands (R84), five bus kinds (R95) and the sentinel micro-op
(R92). -/
inductive Instr where
  /-- RUN n: `n` is the 32-bit field, read as two's complement (R83, R112) -/
  | run (n : BitVec 32)
  /-- SCHED pid (R151) -/
  | sched (pid : BitVec 16)
  /-- NEXTPROG (R153) -/
  | nextprog
  /-- FETCHOP (R152) -/
  | fetchop
  /-- DISPATCH start, end (R170) -/
  | dispatch (first last : BitVec 12)
  /-- DVALUE (R190) -/
  | dvalue
  /-- DADVANCE (R191) -/
  | dadvance
  /-- DINSERT v (R192) -/
  | dinsert (v : BitVec 32)
  /-- CLASSIFY iw (R185) -/
  | classify (iw : BitVec 32)
  /-- STATUS (R201) -/
  | status
  /-- BUS_READ: the bus step of a Read (R115) -/
  | busRead
  /-- BUS_READOPCODE: the bus step of a ReadOpcode (R115) -/
  | busReadopcode
  /-- BUS_WRITE: the bus step of a Write (R115) -/
  | busWrite
  /-- BUS_READY: the spin step (R118) -/
  | busReady
  /-- BUS_NONE: the internal step, never driven (R116) -/
  | busNone
  /-- MOP_NEXT: the sentinel "move to next program" step (R92, R153) -/
  | mopNext
  deriving DecidableEq, Repr

/-- An encoded word on one of the block's interfaces (R80): a command, a bus kind code or a micro-op. -/
inductive PortWord where
  | cmd (w : CmdWord)
  | kind (c : KindCode)
  | mop (m : MopWord)
  deriving DecidableEq, Repr

end Sys2Proof
end

