-- ==== Sys2Proof/Machine/State.lean ====
section
/-! DEFINITION. The state of the block (rule R20 of spec/10_state.md) with its parameters and its outside world, as
plain data; the reasons a step can stop; the state after reset. -/

namespace Sys2Proof.Machine

/-- `MODE` (R27). -/
inductive Mode where
  | idle | running
  deriving DecidableEq, Repr

/-- One slot of the deferred backlog (R31). -/
structure DSlot where
  valid : Bool
  value : BitVec 32
  deriving DecidableEq, Repr

/-- The fault codes of R211 that are latched. -/
inductive FaultCode where
  | illegalCmd | costInvalid | noneLimit | schedOverflow | schedEmpty | schedUnterminated
  | dispatchRange | deferUndefined
  deriving DecidableEq, Repr

/-- What the outside world presents to an idle block (R9, R14, R56, R153). -/
inductive Input where
  /-- the host issues a command word -/
  | cmd (w : CmdWord)
  /-- the consumer executes a micro-op word it fetched -/
  | mop (m : MopWord)
  /-- the program store owner defines the program of a PID -/
  | program (pid : Pid) (ws : List MopWord)
  deriving DecidableEq, Repr

/-- A scripted answer of the handler: the ready line of a step and the answer to its operation. -/
structure Answer where
  rdy : Bool
  cost : Cost
  rdata : Nat
  deriving DecidableEq, Repr

/-- Which handler is attached; fixed when the block is built (R36). -/
inductive HandlerChoice where
  /-- the oracle of R58: every answer is admitted -/
  | oracle
  /-- the answers of `Env.answers`, one for each operation, then the oracle -/
  | scripted
  /-- REFHND, 95_test_vectors.md 1.2 -/
  | refhnd
  /-- ZEROHND, 95_test_vectors.md 1.4 -/
  | zerohnd
  deriving DecidableEq, Repr

/-- Everything outside the block that a run depends on (R37): external agents, not state of the block. -/
structure Env where
  /-- what the host, the consumer and the store owner present next, oldest first -/
  pending : List Input
  /-- the samples of `rst` at the next step boundaries; an empty list is a line that stays low -/
  rst : List Bool
  /-- the program store: PID and program, strictly rising, no empty program listed (R56) -/
  store : List (Nat × List MopWord)
  handler : HandlerChoice
  /-- which course the outside world takes, for the uninterpreted answers -/
  world : Nat
  /-- the scripted answers -/
  answers : List Answer
  /-- the memory of REFHND and ZEROHND: address and byte, strictly rising, no zero byte listed -/
  mem : List Host.Cell
  /-- the operation counter `t` of REFHND -/
  opCount : Nat
  /-- REFHND's `script`: entry `t` is the line for operation `t + 1` -/
  rdyScript : List Bool
  /-- REFHND's `script` past the list -/
  rdyRest : Bool
  /-- the port events so far, newest first -/
  log : List Event
  deriving DecidableEq, Repr

/-- The state of the machine: the tuple of R20, then the parameters, the outside world and the counter of free
values. -/
structure State where
  /-- `MODE` (R27) -/
  mode : Mode
  /-- `RP` (R21), a number below `NRP` -/
  rp : Nat
  /-- `BUDGET` (R22), exact -/
  budget : Int
  /-- `IN_SPIN` (R23) -/
  inSpin : Bool
  /-- `LAST_ADDR` (R24), a number below `2 ^ ADDR_W` -/
  lastAddr : Nat
  /-- `NONE_RUN` (R26) -/
  noneRun : Nat
  /-- `ARCH` (R25) -/
  arch : Arch
  /-- `SLOT[0..3]` (R28) -/
  slots : Vector Pid 4
  /-- `RIDX` (R29) -/
  ridx : BitVec 2
  /-- `WIDX` (R29) -/
  widx : BitVec 2
  /-- `STEP` (R30) -/
  stepCtr : BitVec 16
  /-- `DSLOT[0..DEFER_D-1]` (R31), the current slot first -/
  dslots : List DSlot
  /-- `FAULT_CODE` (R32) -/
  faultCode : BitVec 8
  /-- the parameters of R10; never written -/
  params : Params
  /-- the outside world -/
  env : Env
  /-- the model's own counter of free values drawn (notes/assumptions/4.md) -/
  draws : Nat
  deriving DecidableEq, Repr

/-- Why the model has no next state. A fault of the spec is none of these: it is a next state (R213). -/
inductive Fault where
  /-- Raised by the five bus kinds when the stepper is not at a step of that kind: no RUN is in progress, or the
  pending micro-step and the ready line call for another kind. The block never drives such a kind, and "a model
  that sees one has a bug" (R95). Safe: the model stops where the hardware has no transition; `step` never
  raises it (notes/assumptions/9.md). -/
  | notAtThisStep
  deriving DecidableEq, Repr

/-- Why the model gives an instruction no meaning. -/
inductive Refusal where
  /-- An instruction whose arm has no meaning yet, by its mnemonic. Safe. No arm uses it. -/
  | notModelled (mnemonic : String)
  /-- A command while a RUN is in progress: "no move: the model has no transition for it" (R14, R245, U21).
  Safe: `step` takes no command then (notes/assumptions/8.md). -/
  | runInProgress
  deriving DecidableEq, Repr

/-- The outside world before anything has happened: no input waits, the reset line is low, no program is defined,
and the handler is the oracle. -/
def Env.initial : Env :=
  { pending := [], rst := [], store := [], handler := .oracle, world := 0, answers := [], mem := [],
    opCount := 0, rdyScript := [], rdyRest := false, log := [] }

/-- A deferred slot without an inserted value: its value field is the free value number `n`, cut to `DEFER_VW`
bits (R31, U25). -/
def DSlot.fresh (vw n : Nat) : DSlot :=
  { valid := false, value := BitVec.ofNat 32 ((Config.deferFree n).toNat % 2 ^ vw) }

/-- The machine right after reset (R240), built with the default parameters. -/
def State.reset : State :=
  { mode := .idle
    rp := 0
    budget := 0
    inSpin := false
    lastAddr := defaultParams.lastAddrReset
    noneRun := 0
    arch := (sequencerOf .param).archReset
    slots := #v[0, 0, 0, 0]
    ridx := 0
    widx := 0
    stepCtr := 0
    dslots := [DSlot.fresh 8 0, DSlot.fresh 8 1]
    faultCode := 0
    params := defaultParams
    env := Env.initial
    draws := 2 }

end Sys2Proof.Machine
end

