-- ==== Sys2Proof/Machine/Memory.lean ====
section
/-! DEFINITION. Sparse data by address in one canonical form: the byte memory of the named handlers
(95_test_vectors.md 1.2) and the program store (R56 of spec/20_memory.md). -/

namespace Sys2Proof.Machine

/-! ## Sorted association lists with a default value -/

/-- The value at `k`; an unlisted key holds the default `d`. -/
def assocGet {α : Type} (d : α) : List (Nat × α) → Nat → α
  | [], _ => d
  | (a, x) :: l, k => if k = a then x else assocGet d l k

/-- The list with `v` at `k`. Writing the default removes the entry. -/
def assocPut {α : Type} [DecidableEq α] (d : α) (k : Nat) (v : α) : List (Nat × α) → List (Nat × α)
  | [] => if v = d then [] else [(k, v)]
  | (a, x) :: l =>
    if k < a then (if v = d then (a, x) :: l else (k, v) :: (a, x) :: l)
    else if k = a then (if v = d then l else (k, v) :: l)
    else (a, x) :: assocPut d k v l

/-- The canonical form: keys strictly rising, no entry equal to the default. -/
abbrev AssocWf {α : Type} (d : α) (l : List (Nat × α)) : Prop :=
  l.Pairwise (fun p q => p.1 < q.1) ∧ ∀ p ∈ l, p.2 ≠ d

/-! ## The named handlers' memory -/

/-- What an unlisted address of the memory reads as ("every other byte 0"; notes/assumptions/16.md). -/
def memDefault : BitVec 8 := 0

/-- One byte of the memory. -/
def readByte (m : List Host.Cell) (a : Nat) : BitVec 8 := assocGet memDefault m a

/-- The memory with one byte written. -/
def writeByte (m : List Host.Cell) (a : Nat) (v : BitVec 8) : List Host.Cell := assocPut memDefault a v m

/-- The memory is in canonical form. -/
abbrev Memory.wf (m : List Host.Cell) : Prop := AssocWf memDefault m

/-- The byte the attached named handler holds at an address. -/
def State.byteAt (s : State) (a : Nat) : BitVec 8 := readByte s.env.mem a

/-! ## The program store -/

/-- `prog(pid)` of R56; a PID the owner has not defined is the empty program. -/
def State.prog (s : State) (pid : Pid) : List MopWord := assocGet [] s.env.store pid.toNat

/-- The store with the program of one PID replaced by its owner. -/
def defineProgram (store : List (Nat × List MopWord)) (pid : Pid) (ws : List MopWord) :
    List (Nat × List MopWord) := assocPut [] pid.toNat ws store

/-- The store is in canonical form, names only PIDs 1..65535 and holds programs of at most 65535 words (R56). -/
abbrev Store.wf (store : List (Nat × List MopWord)) : Prop :=
  AssocWf [] store ∧ ∀ p ∈ store, 1 ≤ p.1 ∧ p.1 ≤ 65535 ∧ p.2.length ≤ 65535

end Sys2Proof.Machine
end

