-- ==== Sys2Proof/Machine/Handler.lean ====
section
/-! DEFINITION. The bus interface: kind codes (R95 of spec/30_encoding.md) and the handler's side of the bus
contract (R52 to R58 of spec/20_memory.md), for the oracle, a script of answers and the named handlers. -/

namespace Sys2Proof.Machine

/-- The kind code on `bus_kind` (R95). -/
def kindCode : BusKind → KindCode
  | .none => 0b000
  | .read => 0b001
  | .readOpcode => 0b010
  | .write => 0b011
  | .ready => 0b100

/-- The bus kind of a micro-step's operation. -/
def busKindOf : AccessKind → BusKind
  | .read => .read
  | .readOpcode => .readOpcode
  | .write => .write

/-- Read-type: Read or ReadOpcode (R16). -/
def isReadType : AccessKind → Bool
  | .read => true
  | .readOpcode => true
  | .write => false

/-- `RdyIn()` (R117): the ready line at the start of the coming step. Sampling changes nothing; the answer belongs
to the step's operation. -/
def rdyLine (e : Env) : Bool :=
  match e.handler with
  | .oracle => Config.rdyDraw e.world e.log
  | .scripted =>
    match e.answers with
    | a :: _ => a.rdy
    | [] => Config.rdyDraw e.world e.log
  | .refhnd => (e.rdyScript[e.opCount]?).getD e.rdyRest
  | .zerohnd => (e.rdyScript[e.opCount]?).getD e.rdyRest

/-- REFHND's `cost(a)`. -/
def refCost (a : Nat) : Cost := if 0x00F0 ≤ a ∧ a ≤ 0x00FF then 3 else 1

/-- REFHND's answer to an operation, from the memory before it. -/
def refAnswer (m : List Host.Cell) (op : BusOp) : BusAnswer :=
  match op.kind with
  | .read => { cost := refCost op.addr, rdata := (readByte m op.addr).toNat }
  | .readOpcode => { cost := refCost op.addr, rdata := (readByte m op.addr).toNat }
  | .write => { cost := refCost op.addr, rdata := 0 }
  | .ready => { cost := 1, rdata := 0 }
  | .none => { cost := 1, rdata := 0 }

/-- ZEROHND's answer: REFHND's, but an operation at address 0 costs 0. -/
def zeroAnswer (m : List Host.Cell) (op : BusOp) : BusAnswer :=
  if op.addr = 0 then { refAnswer m op with cost := 0 } else refAnswer m op

/-- `Bus(kind, addr, wdata)` (R52): what the handler answers. -/
def busAnswer (e : Env) (op : BusOp) : BusAnswer :=
  match e.handler with
  | .oracle => Config.handlerAnswer e.world e.log op
  | .scripted =>
    match e.answers with
    | a :: _ => { cost := a.cost, rdata := a.rdata }
    | [] => Config.handlerAnswer e.world e.log op
  | .refhnd => refAnswer e.mem op
  | .zerohnd => zeroAnswer e.mem op

/-- The named handlers' memory after an operation: only a Write changes it. -/
def memAfter (e : Env) (op : BusOp) : List Host.Cell :=
  match e.handler, op.kind with
  | .refhnd, .write => writeByte e.mem op.addr (BitVec.ofNat 8 op.wdata)
  | .zerohnd, .write => writeByte e.mem op.addr (BitVec.ofNat 8 op.wdata)
  | _, _ => e.mem

/-- The script after an operation: a scripted handler has used its first answer. -/
def answersAfter (e : Env) : List Answer :=
  match e.handler with
  | .scripted => e.answers.tail
  | .oracle => e.answers
  | .refhnd => e.answers
  | .zerohnd => e.answers

/-- The outside world after the handler has acted on an operation: the handler's own state moves on, and the port
event is recorded with the answer. -/
def issueOp (e : Env) (op : BusOp) : Env :=
  { e with
    mem := memAfter e op
    answers := answersAfter e
    opCount := e.opCount + 1
    log := .bus op (busAnswer e op) :: e.log }

end Sys2Proof.Machine
end

