-- ==== Sys2Proof/Machine/Operands.lean ====
section
/-! DEFINITION. The operands of the instructions: the fields of a command (R83, R85 of spec/30_encoding.md) and the
micro-step the sequencer gives the stepper, after the ready-line arbitration (R113, R117, R120 of
spec/40_stepper.md). -/

namespace Sys2Proof.Machine

/-! ## Command operands -/

/-- `n = sint32(word[31:0])`, exact (R83). -/
def runGrant (n : BitVec 32) : Int := n.toInt

/-- A SCHED operand is legal when it names a program (R85). -/
def pidLegal (pid : Pid) : Bool := pid != 0

/-- A DINSERT operand is legal when it fits `DEFER_VW` bits (R85). -/
def deferLegal (p : Params) (v : BitVec 32) : Bool := decide (v.toNat < 2 ^ p.deferVW)

/-- The legality of a DISPATCH range (R170). -/
def rangeLegal (p : Params) (first last : BitVec 12) : Bool :=
  decide (first.toNat ≤ last.toNat ∧ last.toNat ≤ p.dispatchN)

/-- `CONVERT` (R171). -/
def convertIndex (p : Params) (i : Nat) : Nat :=
  match p.convert with
  | none => i
  | some l => l.getD i 0

/-! ## The stepper's operands -/

/-- The sequencer the block is built with. -/
def State.seq (s : State) : Sequencer := sequencerOf s.params.seq

/-- `NRP`. -/
def State.nrp (s : State) : Nat := s.seq.lastRp + 1

/-- `SEQ.micro(RP, ARCH)` (R113). `RP` is below `NRP` in every reachable state; elsewhere it is taken modulo `NRP`
(notes/assumptions/13.md). -/
def State.microStep (s : State) : MicroStep s.seq.lastRp :=
  s.seq.micro (Fin.ofNat (s.seq.lastRp + 1) s.rp) s.arch

/-- `RdyIn()` for the coming step (R117). -/
def State.rdyIn (s : State) : Bool := rdyLine s.env

/-- What the coming step does (R113): an access, a spin or an internal step. -/
inductive Due (n : Nat) where
  | access (kind : AccessKind) (addr wdata : Nat) (k : Arch → Nat → Arch × Fin (n + 1))
  | spin
  | internal (k : Arch → Arch × Fin (n + 1))

/-- The choice of R113: a read-type micro-step is held while the ready line is asserted; a Write and an internal
step never are (R120). -/
def dueOf {n : Nat} (rdy : Bool) : MicroStep n → Due n
  | .int k => .internal k
  | .bus kind addr wdata k => if isReadType kind && rdy then .spin else .access kind addr wdata k

/-- What the coming step does, from the micro-step and the sampled ready line (R113). -/
def State.due (s : State) : Due s.seq.lastRp := dueOf s.rdyIn s.microStep

/-- The bus kind of a step. -/
def Due.kind {n : Nat} : Due n → BusKind
  | .access kind _ _ _ => busKindOf kind
  | .spin => .ready
  | .internal _ => .none

/-- The bus kind of the coming step. -/
def State.dueKind (s : State) : BusKind := s.due.kind

/-- The table row that carries a bus kind. -/
def instrOfKind : BusKind → Instr
  | .none => .busNone
  | .read => .busRead
  | .readOpcode => .busReadopcode
  | .write => .busWrite
  | .ready => .busReady

/-- An address on the bus is `bits(ADDR_W)` (R93; notes/assumptions/14.md). -/
def busAddr (p : Params) (a : Nat) : Nat := a % 2 ^ p.addrW

/-- A data unit on the bus is `bits(DATA_W)` (R93; notes/assumptions/14.md). -/
def busData (p : Params) (d : Nat) : Nat := d % 2 ^ p.dataW

/-- The bus record of an access: write data only for a Write (R93, R115). -/
def accessOp (p : Params) (kind : AccessKind) (addr wdata : Nat) : BusOp :=
  { kind := busKindOf kind
    addr := busAddr p addr
    wdata := if kind = .write then busData p wdata else 0 }

/-- The bus record of a Ready operation: `LAST_ADDR` redriven (R118). -/
def spinOp (s : State) : BusOp := { kind := .ready, addr := s.lastAddr, wdata := 0 }

/-- The data unit a continuation receives: the stepper's own for a Write (R53), the handler's for a read. -/
def accessData (p : Params) (kind : AccessKind) (wdata : Nat) (ans : BusAnswer) : Nat :=
  if kind = .write then busData p wdata else busData p ans.rdata

end Sys2Proof.Machine
end

