-- ==== Sys2Proof/Machine/Ops.lean ====
section
/-! DEFINITION. The operations the meanings share: port events and responses (R87), fault entry, the gate and the
way out of a fault (R213 to R215, R240), the scheduler's slots (R28), the deferred backlog (R31, R62), the steps of
the stepper (R115, R116, R118) and the end of a RUN (R112). -/

namespace Sys2Proof.Machine

/-! ## Ports -/

/-- Record a port event. -/
def State.emit (ev : Event) (s : State) : State :=
  { s with env := { s.env with log := ev :: s.env.log } }

/-- Record several port events, the first of the list first. -/
def State.emitAll (evs : List Event) (s : State) : State :=
  { s with env := { s.env with log := evs.reverse ++ s.env.log } }

/-- A response word with `ERR` = 0 (R87). -/
def okWord (v : Payload) : CmdWord := 0#1 ++ v

/-- A response word with `ERR` = 1 and a fault code as its payload (R87). -/
def errWord (code : BitVec 8) : CmdWord := 1#1 ++ code.setWidth 63

/-- `respond(v)` (R13, R87). -/
def State.respond (v : Payload) (s : State) : State := s.emit (.resp (okWord v))

/-- The `ERR` response with the latched code (R213, R214). -/
def State.respondFault (s : State) : State := s.emit (.resp (errWord s.faultCode))

/-! ## Faults -/

/-- The code a fault latches (R211). -/
def FaultCode.code : FaultCode → BitVec 8
  | .illegalCmd => 0x01
  | .costInvalid => 0x02
  | .noneLimit => 0x03
  | .schedOverflow => 0x04
  | .schedEmpty => 0x05
  | .schedUnterminated => 0x06
  | .dispatchRange => 0x07
  | .deferUndefined => 0x08

/-- `raise Fault(C)` (R213): latch the code, leave the RUN, answer with `ERR`. The state it is given is the one the
fault leaves, so whatever a rule would write after its check is not written. -/
def State.raise (c : FaultCode) (s : State) : State :=
  ({ s with faultCode := c.code, mode := .idle }).respondFault

/-- The frame of every command but STATUS: no command during a RUN (R14), the gate (R214), then the command's own
rule. -/
def State.command (act : State → State) (s : State) : Host.Outcome State Fault Refusal :=
  if s.mode = .running then .refused .runInProgress
  else if s.faultCode ≠ 0 then .next s.respondFault
  else .next (act s)

/-- A word that decodes to Illegal (R216), after the gate (R217). -/
def State.rejectWord (s : State) : State :=
  if s.faultCode ≠ 0 then s.respondFault else s.raise .illegalCmd

/-! ## Reset, the only way out of a fault (R215, R240) -/

/-- The deferred slots after reset: none holds an inserted value (R240). -/
def freshSlots (vw : Nat) : Nat → Nat → List DSlot
  | 0, _ => []
  | d + 1, n => DSlot.fresh vw n :: freshSlots vw d (n + 1)

/-- `Reset()` (R240): every element of the block's state at its reset value. The parameters and the outside world
stay; no response, no flush, no bus operation. -/
def State.resetBlock (s : State) : State :=
  { mode := .idle
    rp := 0
    budget := 0
    inSpin := false
    lastAddr := s.params.lastAddrReset
    noneRun := 0
    arch := s.seq.archReset
    slots := #v[0, 0, 0, 0]
    ridx := 0
    widx := 0
    stepCtr := 0
    dslots := freshSlots s.params.deferVW s.params.deferD s.draws
    faultCode := 0
    params := s.params
    env := { s.env with log := .rst :: s.env.log }
    draws := s.draws + s.params.deferD }

/-! ## The scheduler's ring (R28, R29, R150) -/

/-- `SLOT[i]`. -/
def State.slotAt (s : State) (i : BitVec 2) : Pid := s.slots[i.toNat]'i.isLt

/-- `SLOT[i] <- pid`. -/
def State.setSlot (i : BitVec 2) (pid : Pid) (s : State) : State :=
  { s with slots := s.slots.set i.toNat pid i.isLt }

/-- `move_to_next_program` (R153): clear the read slot, advance the read index, start the next program at its first
word; with an empty read slot, `SCHED_EMPTY`. Shared by NEXTPROG and the sentinel MOP_NEXT it executes. -/
def State.moveToNext (s : State) : State :=
  if s.slotAt s.ridx = 0 then s.raise .schedEmpty
  else ({ s.setSlot s.ridx 0 with ridx := s.ridx + 1, stepCtr := 0 }).respond 0

/-! ## The deferred backlog (R31) -/

/-- The shift of R191: every slot takes its successor, the newest is left without an inserted value. -/
def shiftSlots (fresh : DSlot) (l : List DSlot) : List DSlot := l.tail ++ [fresh]

/-- The storage word of R62: slot `i`'s value at bits `[(i+1)*VW-1 : i*VW]`. No command shows it. -/
def packSlots (vw : Nat) : List DSlot → Nat
  | [] => 0
  | d :: l => d.value.toNat % 2 ^ vw + 2 ^ vw * packSlots vw l

/-! ## The stepper's steps -/

/-- The state once the handler has acted on an operation. -/
def State.issue (op : BusOp) (s : State) : State := { s with env := issueOp s.env op }

/-- The bus step (R115). The fault of a cost 0 is detected after the handler has acted, and nothing of the block
but the fault is written. -/
def State.busStep {n : Nat} (kind : AccessKind) (addr wdata : Nat) (k : Arch → Nat → Arch × Fin (n + 1))
    (s : State) : State :=
  let op := accessOp s.params kind addr wdata
  let ans := busAnswer s.env op
  if ans.cost = 0 then (s.issue op).raise .costInvalid
  else
    let r := k s.arch (accessData s.params kind wdata ans)
    { s.issue op with
      arch := r.1
      rp := r.2.val
      lastAddr := op.addr
      inSpin := false
      noneRun := 0
      budget := s.budget - ans.cost.toNat }

/-- The spin step (R118). -/
def State.spinStep (s : State) : State :=
  let ans := busAnswer s.env (spinOp s)
  if ans.cost = 0 then (s.issue (spinOp s)).raise .costInvalid
  else
    { s.issue (spinOp s) with
      inSpin := true
      noneRun := 0
      budget := s.budget - ans.cost.toNat }

/-- The internal step (R116). -/
def State.intStep {n : Nat} (k : Arch → Arch × Fin (n + 1)) (s : State) : State :=
  if s.noneRun = s.params.noneLimit then s.raise .noneLimit
  else { s with arch := (k s.arch).1, rp := (k s.arch).2.val, noneRun := s.noneRun + 1 }

/-- The normal end of a RUN (R112, R125): idle, one flush, then the response. -/
def State.finishRun (s : State) : State :=
  (({ s with mode := .idle }).emit .flush).respond 0

/-- An access of one kind, when the stepper is at a step of that kind during a RUN (R113). -/
def State.accessStep (want : AccessKind) (s : State) : Host.Outcome State Fault Refusal :=
  match s.mode, s.due with
  | .running, .access kind addr wdata k =>
    if kind = want then .next (s.busStep kind addr wdata k) else .fault .notAtThisStep
  | _, _ => .fault .notAtThisStep

end Sys2Proof.Machine
end

