-- ==== Sys2Proof/Machine/Flags.lean ====
section
/-! DEFINITION. The status bits and the STATUS word (R40 of spec/10_state.md, R200 of spec/44_status.md). -/

namespace Sys2Proof.Machine

/-- FAULTED: `FAULT_CODE != 0` (R200). -/
def State.faulted (s : State) : Bool := s.faultCode != 0

/-- OCC bit `k`: `SLOT[k] != 0` (R200). -/
def State.occupied (s : State) (k : BitVec 2) : Bool := s.slotAt k != 0

/-- OCC, slot 3 in the high bit (R201). -/
def State.occ (s : State) : BitVec 4 :=
  BitVec.ofBool (s.occupied 3) ++ BitVec.ofBool (s.occupied 2) ++ BitVec.ofBool (s.occupied 1) ++
    BitVec.ofBool (s.occupied 0)

/-- The STATUS word of R200, composed as R201 writes it. -/
def State.statusWord (s : State) : BitVec 32 :=
  0#8 ++ s.occ ++ s.widx ++ s.ridx ++ s.faultCode ++ 0#6 ++ BitVec.ofBool s.faulted ++
    BitVec.ofBool s.inSpin

/-- How many programs are outstanding: the non-zero slots (R154). -/
def State.outstanding (s : State) : Nat :=
  (if s.slotAt 0 = 0 then 0 else 1) + (if s.slotAt 1 = 0 then 0 else 1) + (if s.slotAt 2 = 0 then 0 else 1) +
    (if s.slotAt 3 = 0 then 0 else 1)

end Sys2Proof.Machine
end

