-- ==== Sys2Proof/Machine/Classifier.lean ====
section
/-! DEFINITION. The decode classifier (spec/42_dispatch.md R180 to R186) and CLASSIFY. -/

namespace Sys2Proof.Machine

/-- `DECODE_FIELD(iw)` (R181): the bits of `iw` at the given positions, index bit 0 first. -/
def fieldIndex (positions : List Nat) (iw : BitVec 32) : BitVec 8 :=
  BitVec.ofNat 8 (positions.foldr (fun b acc => 2 * acc + (iw.getLsbD b).toNat) 0)

/-- The coarse level (R181): the first matching pattern's operation, or Undefined. -/
def coarse (p : Params) (idx : BitVec 8) : Op :=
  match p.decodePatterns.find? (fun e => idx &&& e.mask == e.value) with
  | some e => e.op
  | none => .undefined

/-- The refinement of an operation (R182), if it has one. -/
def refinement (p : Params) (c : Op) : Option (List Cube) :=
  (p.decodeRefine.find? (fun r => r.1 == c)).map Prod.snd

/-- A refinement predicate on a word: some cube holds. -/
def refineHolds (cubes : List Cube) (iw : BitVec 32) : Bool :=
  cubes.any fun q => iw &&& q.mask == q.value

/-- `classify(iw)` (R182): coarse lookup first, refinement second. -/
def classify (p : Params) (iw : BitVec 32) : Op :=
  let c := coarse p (fieldIndex p.decodeField iw)
  match refinement p c with
  | some cubes => if refineHolds cubes iw then c else .undefined
  | none => c

/-- `CLASS_CODE` (R96): Undefined is 0xFF. -/
def classCodeOf (p : Params) : Op → ClassCode
  | .undefined => 0xFF
  | op =>
    match p.classCode.find? (fun r => r.1 == op) with
    | some r => r.2
    | none => 0xFF

/-- CLASSIFY iw (R185). Undefined is a value, not a fault (R212). -/
def execClassify (iw : BitVec 32) (s : State) : Host.Outcome State Fault Refusal :=
  s.command fun s => s.respond ((classCodeOf s.params (classify s.params iw)).setWidth 63)

end Sys2Proof.Machine
end

