-- ==== Sys2Proof/Machine/Deferred.lean ====
section
/-! DEFINITION. The deferred value pipeline: DVALUE, DADVANCE, DINSERT (spec/43_deferred.md). -/

namespace Sys2Proof.Machine

/-- DVALUE (R190): the current slot's value, or `DEFER_UNDEFINED` when it holds none. -/
def execDvalue (s : State) : Host.Outcome State Fault Refusal :=
  s.command fun s =>
    match s.dslots with
    | [] => s.raise .deferUndefined
    | d :: _ => if d.valid then s.respond (d.value.setWidth 63) else s.raise .deferUndefined

/-- DADVANCE (R191): the value field of the vacated newest slot is a free value. -/
def execDadvance (s : State) : Host.Outcome State Fault Refusal :=
  s.command fun s =>
    ({ s with
        dslots := shiftSlots (DSlot.fresh s.params.deferVW s.draws) s.dslots
        draws := s.draws + 1 }).respond 0

/-- DINSERT v (R192): only the newest slot is written. A `v` wider than `DEFER_VW` is an illegal word (R85). -/
def execDinsert (v : BitVec 32) (s : State) : Host.Outcome State Fault Refusal :=
  s.command fun s =>
    if !deferLegal s.params v then s.raise .illegalCmd
    else ({ s with
            dslots := s.dslots.set (s.params.deferD - 1) { valid := true, value := v } }).respond 0

end Sys2Proof.Machine
end

