-- ==== Sys2Proof/Machine/DispatchUnit.lean ====
section
/-! DEFINITION. The dispatch sequencer (spec/42_dispatch.md R170 to R173). -/

namespace Sys2Proof.Machine

/-- The perform events of `[first, last)` in ascending order, each index converted (R170 to R172). -/
def performEvents (p : Params) (first last : Nat) : List Event :=
  (List.range' first (last - first)).map fun i => .perform (convertIndex p i)

/-- DISPATCH start, end (R170): the range check comes before any event. -/
def execDispatch (first last : BitVec 12) (s : State) : Host.Outcome State Fault Refusal :=
  s.command fun s =>
    if !rangeLegal s.params first last then s.raise .dispatchRange
    else (s.emitAll (performEvents s.params first.toNat last.toNat)).respond 0

end Sys2Proof.Machine
end

