-- ==== Sys2Proof/Machine/Scheduler.lean ====
section
/-! DEFINITION. The micro-op scheduler: SCHED, FETCHOP, NEXTPROG and the sentinel MOP_NEXT (spec/41_scheduler.md). -/

namespace Sys2Proof.Machine

/-- SCHED pid (R151). The word SCHED 0 is illegal (R85). -/
def execSched (pid : BitVec 16) (s : State) : Host.Outcome State Fault Refusal :=
  s.command fun s =>
    if !pidLegal pid then s.raise .illegalCmd
    else if s.slotAt s.widx ≠ 0 then s.raise .schedOverflow
    else ({ s.setSlot s.widx pid with widx := s.widx + 1 }).respond 0

/-- FETCHOP (R152): the word is read from the store now, and the sentinel is returned like any other word. -/
def execFetchop (s : State) : Host.Outcome State Fault Refusal :=
  s.command fun s =>
    if s.slotAt s.ridx = 0 then s.raise .schedEmpty
    else
      match (s.prog (s.slotAt s.ridx))[s.stepCtr.toNat]? with
      | none => s.raise .schedUnterminated
      | some m => ({ s with stepCtr := s.stepCtr + 1 }).respond (m.setWidth 63)

/-- NEXTPROG (R153). -/
def execNextprog (s : State) : Host.Outcome State Fault Refusal := s.command State.moveToNext

/-- MOP_NEXT (R92, R152, R153): the consumer executes the sentinel by issuing NEXTPROG, whose action this is
(notes/assumptions/10.md). -/
def execMopNext (s : State) : Host.Outcome State Fault Refusal := s.command State.moveToNext

end Sys2Proof.Machine
end

