-- ==== Sys2Proof/Machine/Status.lean ====
section
/-! DEFINITION. The status port: STATUS (spec/44_status.md R201). -/

namespace Sys2Proof.Machine

/-- STATUS (R201): never gated, answered with `ERR` = 0 even while faulted; like every command it is not issued
during a RUN (R14). -/
def execStatus (s : State) : Host.Outcome State Fault Refusal :=
  match s.mode with
  | .running => .refused .runInProgress
  | .idle => .next (s.respond (s.statusWord.setWidth 63))

end Sys2Proof.Machine
end

