-- ==== Sys2Proof/Machine/Stepper.lean ====
section
/-! DEFINITION. RUN and the five bus kinds (spec/40_stepper.md). -/

namespace Sys2Proof.Machine

/-- RUN n (R112, R124): grant the budget and enter the stepping loop; `n <= 0` is a no-op. The loop itself is
`step` while `MODE` is Running, one transition for each step, and its end is `State.finishRun`. -/
def execRun (n : BitVec 32) (s : State) : Host.Outcome State Fault Refusal :=
  s.command fun s =>
    if runGrant n ≤ 0 then s.respond 0
    else { s with budget := s.budget + runGrant n, mode := .running }

/-- BUS_READ (R115). -/
def execBusRead (s : State) : Host.Outcome State Fault Refusal := s.accessStep .read

/-- BUS_READOPCODE (R115). -/
def execBusReadopcode (s : State) : Host.Outcome State Fault Refusal := s.accessStep .readOpcode

/-- BUS_WRITE (R115): whatever the ready line is (R120). -/
def execBusWrite (s : State) : Host.Outcome State Fault Refusal := s.accessStep .write

/-- BUS_READY (R118). -/
def execBusReady (s : State) : Host.Outcome State Fault Refusal :=
  match s.mode, s.due with
  | .running, .spin => .next s.spinStep
  | _, _ => .fault .notAtThisStep

/-- BUS_NONE (R116). -/
def execBusNone (s : State) : Host.Outcome State Fault Refusal :=
  match s.mode, s.due with
  | .running, .internal k => .next (s.intStep k)
  | _, _ => .fault .notAtThisStep

end Sys2Proof.Machine
end

