-- ==== Sys2Proof/Machine/Dispatch.lean ====
section
/-! DEFINITION. The meaning of each instruction, one arm for each constructor of `Instr`. -/

namespace Sys2Proof.Machine

def exec (i : Instr) (s : State) : Host.Outcome State Fault Refusal :=
  match i with
  | .run n => Sys2Proof.Machine.execRun n s
  | .sched pid => Sys2Proof.Machine.execSched pid s
  | .nextprog => Sys2Proof.Machine.execNextprog s
  | .fetchop => Sys2Proof.Machine.execFetchop s
  | .dispatch first last => Sys2Proof.Machine.execDispatch first last s
  | .dvalue => Sys2Proof.Machine.execDvalue s
  | .dadvance => Sys2Proof.Machine.execDadvance s
  | .dinsert v => Sys2Proof.Machine.execDinsert v s
  | .classify iw => Sys2Proof.Machine.execClassify iw s
  | .status => Sys2Proof.Machine.execStatus s
  | .busRead => Sys2Proof.Machine.execBusRead s
  | .busReadopcode => Sys2Proof.Machine.execBusReadopcode s
  | .busWrite => Sys2Proof.Machine.execBusWrite s
  | .busReady => Sys2Proof.Machine.execBusReady s
  | .busNone => Sys2Proof.Machine.execBusNone s
  | .mopNext => Sys2Proof.Machine.execMopNext s

end Sys2Proof.Machine
end

