-- ==== Sys2Proof/WellFormed.lean ====
section
/-! DEFINITION. Which instructions have an encoding: the operand conditions of rule R85 (spec/30_encoding.md). -/

namespace Sys2Proof

/-- The operand conditions of R85 for a block with the deferred value width `vw`: SCHED names a program, and a
DINSERT operand fits the width. Every other operand fills its field. -/
def Instr.wf (vw : Nat) : Instr → Bool
  | .run _ => true
  | .sched pid => pid != 0
  | .nextprog => true
  | .fetchop => true
  | .dispatch _ _ => true
  | .dvalue => true
  | .dadvance => true
  | .dinsert v => decide (v.toNat < 2 ^ vw)
  | .classify _ => true
  | .status => true
  | .busRead => true
  | .busReadopcode => true
  | .busWrite => true
  | .busReady => true
  | .busNone => true
  | .mopNext => true

end Sys2Proof
end

