-- ==== Sys2Proof/Decode.lean ====
section
/-! DEFINITION. The decoder of rule R88 with the bus kind codes of R95 and the micro-op words of R92, total and
rejecting by name, and after it the encoder from the formats of R82 to R84 (spec/30_encoding.md). -/

namespace Sys2Proof

/-- The sentinel `MOP_NEXT` (R92). -/
def MOP_NEXT : MopWord := 0xFFFF

/-- Why a word is no instruction. -/
inductive Reject where
  /-- an opcode outside the map of R84 (R86) -/
  | opcode
  /-- a reserved field that is not zero (R85) -/
  | reserved
  /-- SCHED 0 (R85, R88) -/
  | schedZero
  /-- a DINSERT operand with a bit at or above `DEFER_VW` (R85, R88) -/
  | dinsertWide
  /-- a reserved bus kind code (R95) -/
  | kindReserved
  /-- a micro-op word other than `MOP_NEXT`: opaque to the block (R92, U34) -/
  | mopOpaque
  deriving DecidableEq, Repr

/-! ## Fields of a command word (R81 to R83) -/

/-- `OPC`, bits [63:56]. -/
def opcOf (w : CmdWord) : BitVec 8 := w.extractLsb' 56 8
/-- `N`, `V` or `IW`, bits [31:0]. -/
def arg32 (w : CmdWord) : BitVec 32 := w.extractLsb' 0 32
/-- `PID`, bits [15:0]. -/
def argPid (w : CmdWord) : BitVec 16 := w.extractLsb' 0 16
/-- `START`, bits [11:0]. -/
def argStart (w : CmdWord) : BitVec 12 := w.extractLsb' 0 12
/-- `END`, bits [23:12]. -/
def argEnd (w : CmdWord) : BitVec 12 := w.extractLsb' 12 12

/-- The formats of R82. -/
inductive Format where
  | N | R | P | D | V | W
  deriving DecidableEq, Repr

/-- The bits of a format that must be zero (R82, R88). -/
def reservedZero (f : Format) (w : CmdWord) : Bool :=
  match f with
  | .N => w.extractLsb' 0 56 == 0
  | .R => w.extractLsb' 32 24 == 0
  | .V => w.extractLsb' 32 24 == 0
  | .W => w.extractLsb' 32 24 == 0
  | .P => w.extractLsb' 16 40 == 0
  | .D => w.extractLsb' 24 32 == 0

/-- Answer `i` if the reserved bits of the format are zero. -/
def withFormat (f : Format) (w : CmdWord) (i : Except Reject Instr) : Except Reject Instr :=
  if reservedZero f w then i else .error .reserved

/-- The decode procedure of R88, with `DEFER_VW` as its argument. -/
def decode (vw : Nat) (w : CmdWord) : Except Reject Instr :=
  match (opcOf w).toNat with
  | 0x01 => withFormat .R w (.ok (.run (arg32 w)))
  | 0x10 => withFormat .P w (if argPid w = 0 then .error .schedZero else .ok (.sched (argPid w)))
  | 0x11 => withFormat .N w (.ok .nextprog)
  | 0x12 => withFormat .N w (.ok .fetchop)
  | 0x20 => withFormat .D w (.ok (.dispatch (argStart w) (argEnd w)))
  | 0x30 => withFormat .N w (.ok .dvalue)
  | 0x31 => withFormat .N w (.ok .dadvance)
  | 0x32 => withFormat .V w
      (if (arg32 w).toNat < 2 ^ vw then .ok (.dinsert (arg32 w)) else .error .dinsertWide)
  | 0x40 => withFormat .W w (.ok (.classify (arg32 w)))
  | 0x50 => withFormat .N w (.ok .status)
  | _ => .error .opcode

/-- The bus kind codes of R95. -/
def decodeKind (c : KindCode) : Except Reject Instr :=
  match c.toNat with
  | 0 => .ok .busNone
  | 1 => .ok .busRead
  | 2 => .ok .busReadopcode
  | 3 => .ok .busWrite
  | 4 => .ok .busReady
  | _ => .error .kindReserved

/-- The micro-op words of R92: only the sentinel means something to the block. -/
def decodeMop (m : MopWord) : Except Reject Instr :=
  if m = MOP_NEXT then .ok .mopNext else .error .mopOpaque

/-- The instruction an encoded word of any interface stands for. -/
def decodeWord (vw : Nat) : PortWord → Except Reject Instr
  | .cmd w => decode vw w
  | .kind c => decodeKind c
  | .mop m => decodeMop m

/-- The word a table row's bits stand for: at most 8 bits are a bus kind code, at most 16 a micro-op word, more a
command word. `none` where the bits do not fit the interface. -/
def tableWord (nbits w : Nat) : Option PortWord :=
  if nbits ≤ 8 then (if w < 2 ^ 3 then some (.kind (BitVec.ofNat 3 w)) else none)
  else if nbits ≤ 16 then (if w < 2 ^ 16 then some (.mop (BitVec.ofNat 16 w)) else none)
  else if w < 2 ^ 64 then some (.cmd (BitVec.ofNat 64 w)) else none

/-- The deferred value width the table's words are read with: that of 95_test_vectors.md 1.4, which `State.reset`
is built with. -/
def tableDeferVW : Nat := 8

/-- The instruction the decoder reads from a table row's bits. -/
def decodeTableWord (nbits w : Nat) : Option Instr :=
  match tableWord nbits w with
  | some pw =>
    match decodeWord tableDeferVW pw with
    | .ok i => some i
    | .error _ => none
  | none => none

/-! ## The encoder (R82 to R84, R92, R95) -/

/-- Format N: the opcode and zeros. -/
def formatN (opc : BitVec 8) : CmdWord := opc ++ 0#56
/-- Formats R, V and W: the opcode, zeros and a 32-bit operand. -/
def format32 (opc : BitVec 8) (v : BitVec 32) : CmdWord := opc ++ 0#24 ++ v
/-- Format P: the opcode, zeros and a 16-bit program reference. -/
def formatP (opc : BitVec 8) (pid : BitVec 16) : CmdWord := opc ++ 0#40 ++ pid
/-- Format D: the opcode, zeros, `END` and `START`. -/
def formatD (opc : BitVec 8) (first last : BitVec 12) : CmdWord := opc ++ 0#32 ++ last ++ first

/-- The word of an instruction. -/
def encode : Instr → PortWord
  | .run n => .cmd (format32 0x01 n)
  | .sched pid => .cmd (formatP 0x10 pid)
  | .nextprog => .cmd (formatN 0x11)
  | .fetchop => .cmd (formatN 0x12)
  | .dispatch a b => .cmd (formatD 0x20 a b)
  | .dvalue => .cmd (formatN 0x30)
  | .dadvance => .cmd (formatN 0x31)
  | .dinsert v => .cmd (format32 0x32 v)
  | .classify iw => .cmd (format32 0x40 iw)
  | .status => .cmd (formatN 0x50)
  | .busRead => .kind 0b001
  | .busReadopcode => .kind 0b010
  | .busWrite => .kind 0b011
  | .busReady => .kind 0b100
  | .busNone => .kind 0b000
  | .mopNext => .mop MOP_NEXT

end Sys2Proof
end

