-- ==== Sys2Proof/Machine/Fetch.lean ====
section
/-! DEFINITION. What the block does at a step boundary (R14, R113 of spec/40_stepper.md, R217, R226 of
spec/60_exceptions.md, R241 of spec/70_reset_and_hazards.md): reset first, then the stepper while a RUN is in
progress, then the next input. Also how the host's probe words are placed. -/

namespace Sys2Proof.Machine

/-- The work of one step: an instruction to run in a state, or a state already reached. -/
inductive Work where
  | run (i : Instr) (s : State)
  | done (s : State)

/-- The state with the next inputs in place of the pending ones. -/
def State.withPending (rest : List Input) (s : State) : State :=
  { s with env := { s.env with pending := rest } }

/-- The command word `w` is taken from the port, `rest` left waiting. -/
def State.takeCmd (w : CmdWord) (rest : List Input) (s : State) : State :=
  (s.withPending rest).emit (.cmd w)

/-- The program store owner defines a program (R56). -/
def State.defineProg (pid : Pid) (ws : List MopWord) (s : State) : State :=
  { s with env := { s.env with store := defineProgram s.env.store pid ws } }

/-- An idle block takes the next input; without one it stays as it is (R233). A micro-op word other than the
sentinel is the consumer's own and does nothing to the block (R92, U34). -/
def State.idleWork (s : State) : Work :=
  match s.env.pending with
  | [] => .done s
  | .cmd w :: rest =>
    match decode s.params.deferVW w with
    | .ok i => .run i (s.takeCmd w rest)
    | .error _ => .done (s.takeCmd w rest).rejectWord
  | .mop m :: rest =>
    match decodeMop m with
    | .ok i => .run i (s.withPending rest)
    | .error _ => .done (s.withPending rest)
  | .program pid ws :: rest => .done ((s.withPending rest).defineProg pid ws)

/-- During a RUN: a step while `BUDGET > 0`, else the end of the RUN (R112, R113). -/
def State.runWork (s : State) : Work :=
  if 0 < s.budget then .run (instrOfKind s.dueKind) s else .done s.finishRun

/-- The work without the reset line. -/
def State.liveWork (s : State) : Work :=
  match s.mode with
  | .running => s.runWork
  | .idle => s.idleWork

/-- The state with the remaining samples of the reset line. -/
def State.withRst (r : List Bool) (s : State) : State := { s with env := { s.env with rst := r } }

/-- The state a step works on, once this boundary's sample of the reset line is used up. -/
def State.afterSample (s : State) : State := s.withRst s.env.rst.tail

/-- The work at a step boundary: reset pre-empts everything (R217, R226, R241). -/
def State.work (s : State) : Work :=
  if s.env.rst.head? = some true then .done s.afterSample.resetBlock else s.afterSample.liveWork

/-! ## Placing a word where the next step takes it -/

/-- REFSEQ's resume point whose micro-step is of a kind (95_test_vectors.md 1.1); a Ready operation is a held
opcode fetch. -/
def rpForKind : Instr → Nat
  | .busRead => 1
  | .busWrite => 3
  | .busNone => 5
  | _ => 0

/-- A RUN in progress whose coming step is of the given kind: REFSEQ at the resume point of that kind, one cycle of
budget, and a scripted answer whose ready line is asserted exactly for a Ready operation. -/
def State.placeKind (i : Instr) (s : State) : State :=
  { s with
    mode := .running
    budget := 1
    rp := rpForKind i
    arch := refseq.archReset
    noneRun := 0
    params := { s.params with seq := .refseq, noneLimit := 6 }
    env := { s.env with
      rst := []
      handler := .scripted
      answers := [{ rdy := i == .busReady, cost := 1, rdata := 0 }] } }

/-- The state with an encoded word where the next step takes it: a command or a micro-op word as the first pending
input of an idle block, a bus kind as the coming step of a RUN. -/
def State.placeWord (pw : PortWord) (s : State) : State :=
  match pw with
  | .cmd w =>
    { s with mode := .idle, env := { s.env with rst := [], pending := .cmd w :: s.env.pending } }
  | .mop m =>
    { s with mode := .idle, env := { s.env with rst := [], pending := .mop m :: s.env.pending } }
  | .kind c =>
    match decodeKind c with
    | .ok i => s.placeKind i
    | .error _ => s

end Sys2Proof.Machine
end

