-- ==== Sys2Proof/Machine/Step.lean ====
section
/-! DEFINITION. One step of the machine (rule R14 of spec/00_scope.md): a reset, one input of an idle block, one step
of a RUN, or the end of a RUN. -/

namespace Sys2Proof.Machine

/-- One transition: the work of the boundary, an instruction by its meaning. -/
def step (s : State) : Host.Outcome State Fault Refusal :=
  match s.work with
  | .run i t => exec i t
  | .done t => .next t

/-- The state with a table row's word where the next step takes it (notes/assumptions/7.md). -/
def State.withFetchWord (s : State) (nbits w : Nat) : State :=
  match tableWord nbits w with
  | some pw => s.placeWord pw
  | none => s

end Sys2Proof.Machine
end

