-- ==== Sys2Proof/Safety.lean ====
section
/-! DEFINITION. The terms the claims use: the constraints on the parameters, the invariant of the machine, what a
port log says, and what a group of instructions leaves alone. -/

namespace Sys2Proof.Machine

/-! ## The parameters -/

/-- The operation is a multiply variant (R184). -/
def isMultiply : Op → Bool
  | .multiply _ _ => true
  | .dp _ => false
  | .other _ => false
  | .undefined => false

/-- The constraints the spec puts on the parameters. -/
structure ParamsOk (p : Params) : Prop where
  /-- `LAST_ADDR_RESET` is `bits(ADDR_W)` (R24) -/
  lastAddr : p.lastAddrReset < 2 ^ p.addrW
  /-- `0 ≤ DISPATCH_N ≤ 2048` (R10) -/
  dispatch : p.dispatchN ≤ 2048
  /-- `CONVERT` is total into the perform index space; without one, `PERFORM_M = DISPATCH_N` (R171) -/
  convert : match p.convert with
    | none => p.performM = p.dispatchN
    | some l => l.length = p.dispatchN ∧ ∀ j ∈ l, j < p.performM
  /-- `DEFER_D ≥ 1` (R194) -/
  depth : 1 ≤ p.deferD
  /-- `1 ≤ DEFER_VW ≤ 32` (R194) -/
  width : 1 ≤ p.deferVW ∧ p.deferVW ≤ 32
  /-- `DECODE_FIELD` is eight bits of the word (R181) -/
  field : p.decodeField.length = 8 ∧ p.decodeField.Nodup ∧ ∀ b ∈ p.decodeField, b < 32
  /-- the all-zero word classifies as `AND` (R183) -/
  zeroIsAnd : classify p 0 = .dp 0
  /-- every multiply class has the refinement `iw[7:4] = 0b1001` (R184) -/
  multiply : ∀ e ∈ p.decodePatterns, isMultiply e.op = true → refinement p e.op = some multiplyRefine
  /-- a refinement looks outside the primary field (R182) -/
  outside : ∀ r ∈ p.decodeRefine, ∀ q ∈ r.2, ∀ b ∈ p.decodeField, q.mask.getLsbD b = false
  /-- `CLASS_CODE` names every operation of the table, is injective, gives 0xFF to none and 0x00 to `AND` (R96) -/
  codes : (∀ e ∈ p.decodePatterns, e.op = .undefined ∨ ∃ r ∈ p.classCode, r.1 = e.op) ∧
    (∀ r ∈ p.classCode, ∀ r' ∈ p.classCode, r.1 = r'.1 ↔ r.2 = r'.2) ∧
    (∀ r ∈ p.classCode, r.1 ≠ .undefined ∧ r.2 ≠ 0xFF) ∧ (Op.dp 0, (0x00 : ClassCode)) ∈ p.classCode

/-! ## The invariant -/

/-- The ring discipline of R154: the non-zero slots are the contiguous run of ring positions from `RIDX` up to but
not including `WIDX`, all four or none of them when the indices are equal. -/
def State.RingOk (s : State) : Prop :=
  ∃ n : Nat, n ≤ 4 ∧ s.widx = s.ridx + BitVec.ofNat 2 n ∧
    ∀ k : Nat, k < 4 → (s.slotAt (s.ridx + BitVec.ofNat 2 k) ≠ 0 ↔ k < n)

/-- What the outside world may present (R56): a program of a PID 1..65535 with at most 65535 words. -/
def Input.Ok : Input → Prop
  | .cmd _ => True
  | .mop _ => True
  | .program pid ws => pid ≠ 0 ∧ ws.length ≤ 65535

/-- What every step keeps. -/
structure State.Inv (s : State) : Prop where
  params : ParamsOk s.params
  /-- `RP` is a resume point (R21) -/
  rp : s.rp < s.nrp
  /-- `LAST_ADDR` is `bits(ADDR_W)` (R24) -/
  lastAddr : s.lastAddr < 2 ^ s.params.addrW
  /-- `NONE_RUN` is at most `NONE_LIMIT` (R26) -/
  noneRun : s.noneRun ≤ s.params.noneLimit
  /-- the lower bound of R22 -/
  budgetLow : -(2 ^ 16 - 2) ≤ s.budget
  /-- the upper bound of R22 -/
  budgetHigh : s.budget ≤ 2 ^ 31 - 1
  /-- between commands, with no fault latched, no budget is left (R22; notes/assumptions/11.md) -/
  budgetIdle : s.mode = .idle → s.faultCode = 0 → s.budget ≤ 0
  /-- a latched fault has ended the command (R213) -/
  faultIdle : s.faultCode ≠ 0 → s.mode = .idle
  /-- only the codes of R211 are latched -/
  faultCode : s.faultCode.toNat ≤ 8
  ring : s.RingOk
  /-- with no program current, the step counter is 0 (R153) -/
  stepIdle : s.slotAt s.ridx = 0 → s.stepCtr = 0
  /-- `DEFER_D` deferred slots (R31) -/
  depth : s.dslots.length = s.params.deferD
  /-- every deferred value is `bits(DEFER_VW)` (R31) -/
  values : ∀ d ∈ s.dslots, d.value.toNat < 2 ^ s.params.deferVW
  mem : Memory.wf s.env.mem
  store : Store.wf s.env.store
  pending : ∀ x ∈ s.env.pending, x.Ok

/-! ## Reading a port log (newest event first) -/

/-- The bus operations of a log with their answers, in the log's order. -/
def busTrace : List Event → List (BusOp × BusAnswer)
  | [] => []
  | .bus op ans :: l => (op, ans) :: busTrace l
  | _ :: l => busTrace l

/-- The sum of the costs of a log's bus operations (R114). -/
def busCost (l : List Event) : Int := ((busTrace l).map fun x => (x.2.cost.toNat : Int)).sum

/-- The number of flush strobes of a log (R125). -/
def flushCount (l : List Event) : Nat := l.countP fun e => e == .flush

/-- The perform events of a log, in the log's order. -/
def performTrace : List Event → List Nat
  | [] => []
  | .perform j :: l => j :: performTrace l
  | _ :: l => performTrace l

/-! ## Frames -/

/-- The stepper's elements (R20) are the same. -/
def SameStepper (s t : State) : Prop :=
  t.mode = s.mode ∧ t.rp = s.rp ∧ t.budget = s.budget ∧ t.inSpin = s.inSpin ∧ t.lastAddr = s.lastAddr ∧
    t.noneRun = s.noneRun ∧ t.arch = s.arch

/-- The scheduler's elements are the same. -/
def SameScheduler (s t : State) : Prop :=
  t.slots = s.slots ∧ t.ridx = s.ridx ∧ t.widx = s.widx ∧ t.stepCtr = s.stepCtr

/-- The deferred backlog is the same. -/
def SameDeferred (s t : State) : Prop := t.dslots = s.dslots

/-- What no instruction writes: the parameters, the inputs that wait, the reset line's samples, the program store,
which handler is attached and which course the outside world takes. -/
def SameBuild (s t : State) : Prop :=
  t.params = s.params ∧ t.env.pending = s.env.pending ∧ t.env.rst = s.env.rst ∧ t.env.store = s.env.store ∧
    t.env.handler = s.env.handler ∧ t.env.world = s.env.world ∧ t.env.rdyScript = s.env.rdyScript ∧
    t.env.rdyRest = s.env.rdyRest

/-- No bus operation has reached the handler: its memory, its script and its counter are the same. -/
def SameBus (s t : State) : Prop :=
  (∀ a, t.byteAt a = s.byteAt a) ∧ t.env.mem = s.env.mem ∧ t.env.answers = s.env.answers ∧
    t.env.opCount = s.env.opCount ∧ busTrace t.env.log = busTrace s.env.log

/-- The whole state of the block (R20) is the same. -/
def SameBlock (s t : State) : Prop :=
  SameStepper s t ∧ SameScheduler s t ∧ SameDeferred s t ∧ t.faultCode = s.faultCode

/-- Nothing outside the block has changed but its log, which has the given events more, the newest first; every byte
of the named handlers' memory reads as before. -/
def OnlyLogs (evs : List Event) (s t : State) : Prop :=
  t.env = { s.env with log := evs ++ s.env.log } ∧ ∀ a, t.byteAt a = s.byteAt a

/-- The stepper's elements but `MODE` are the same. -/
def SamePosition (s t : State) : Prop :=
  t.rp = s.rp ∧ t.budget = s.budget ∧ t.inSpin = s.inSpin ∧ t.lastAddr = s.lastAddr ∧ t.noneRun = s.noneRun ∧
    t.arch = s.arch

/-- What fault entry leaves of the block (R213): the code latched, `MODE` Idle, nothing else written. -/
def FaultEntry (c : FaultCode) (s t : State) : Prop :=
  t.faultCode = c.code ∧ t.mode = .idle ∧ SamePosition s t ∧ SameScheduler s t ∧ SameDeferred s t ∧
    t.params = s.params ∧ t.draws = s.draws

/-! ## Runs -/

/-- `k` steps of the machine. -/
abbrev runSteps (k : Nat) (s : State) : Host.Outcome State Fault Refusal := Host.Core.run Sys2Proof.core k s

/-- A step that ends in a next state is safe; a fault or a refusal of the model is not. -/
def SafeStep (s : State) : Prop := ∃ t, step s = .next t

/-- The budget granted by the input an idle block takes next (R112): a RUN with `n >= 1`, no fault latched and no
reset. -/
def grantNext (s : State) : Int :=
  match s.mode, s.env.pending with
  | .idle, .cmd w :: _ =>
    match decode s.params.deferVW w with
    | .ok (.run n) => if s.faultCode = 0 ∧ 0 < runGrant n then runGrant n else 0
    | _ => 0
  | _, _ => 0

/-- The sum of the grants along `k` steps (R114). -/
def grantedIn : Nat → State → Int
  | 0, _ => 0
  | k + 1, s =>
    match step s with
    | .next t => grantNext s + grantedIn k t
    | .fault _ => 0
    | .refused _ => 0

/-- The outside world after `j` Ready operations at one address. -/
def spinsFrom (addr : Nat) : Nat → Env → Env
  | 0, e => e
  | j + 1, e => spinsFrom addr j (issueOp e { kind := .ready, addr := addr, wdata := 0 })

/-- The uninterpreted handler's answers depend only on the sequence of bus and Ready operations (the premise of
R126). -/
def OracleByTrace (world : Nat) : Prop :=
  ∀ l l' : List Event, busTrace l = busTrace l' →
    Config.rdyDraw world l = Config.rdyDraw world l' ∧
      ∀ op, Config.handlerAnswer world l op = Config.handlerAnswer world l' op

/-- The attached handler meets the premise of R126 for a run of at most `n` operations: a named handler, an oracle
that sees only the operations, or a script that is long enough. -/
def HandlerByTrace (n : Int) (e : Env) : Prop :=
  e.handler = .refhnd ∨ e.handler = .zerohnd ∨ OracleByTrace e.world ∨
    (e.handler = .scripted ∧ n ≤ e.answers.length)

/-- The reset line is not asserted at the coming boundary. -/
def NoReset (s : State) : Prop := s.env.rst.head? ≠ some true

/-- The reset line stays low at every boundary of a run. -/
def RstLow (s : State) : Prop := ∀ b ∈ s.env.rst, b = false

end Sys2Proof.Machine
end

