-- ==== Sys2Proof/Certificates/Slice0/Obligations.lean ====
section
/-! DEFINITION. The statements for the provers, from the numbered rules of spec/. -/

open Sys2Proof Sys2Proof.Machine

/-! ## Encoding -/

/-- Words written out from the formats and the maps of R82 to R84, R91, R92 and R95 decode to the instructions they
stand for, and a reserved bit, an opcode outside the map, SCHED 0 and a wide DINSERT operand are rejected by name. -/
def Obligations.SpecWordsDecode : Prop :=
  decodeWord 8 (.cmd 0x0100000000000011) = .ok (.run 17) ∧
  decodeWord 8 (.cmd 0x01000000FFFFFFFF) = .ok (.run (-1)) ∧
  decodeWord 8 (.cmd 0x100000000000FFFF) = .ok (.sched 65535) ∧
  decodeWord 8 (.cmd 0x1100000000000000) = .ok .nextprog ∧
  decodeWord 8 (.cmd 0x2000000000005002) = .ok (.dispatch 2 5) ∧
  decodeWord 8 (.cmd 0x3200000000000041) = .ok (.dinsert 0x41) ∧
  decodeWord 8 (.cmd 0x4000000012345678) = .ok (.classify 0x12345678) ∧
  decodeWord 8 (.cmd 0x5000000000000000) = .ok .status ∧
  decodeWord 8 (.kind 0b010) = .ok .busReadopcode ∧
  decodeWord 8 (.kind 0b100) = .ok .busReady ∧
  decodeWord 8 (.mop 0xFFFF) = .ok .mopNext ∧
  decodeWord 8 (.cmd 0x0000000000000000) = .error .opcode ∧
  decodeWord 8 (.cmd 0x2000000001000000) = .error .reserved ∧
  decodeWord 8 (.cmd 0x1000000000000000) = .error .schedZero ∧
  decodeWord 8 (.cmd 0x3200000000000100) = .error .dinsertWide ∧
  decodeWord 8 (.kind 0b101) = .error .kindReserved

/-- Every instruction that has an encoding is read back from its word, on all three interfaces, with every operand
at every value R85 admits. -/
def Obligations.DecodeOfEncodeIsTheInstruction : Prop :=
  ∀ (vw : Nat) (i : Instr), i.wf vw = true → decodeWord vw (encode i) = .ok i

/-- Each word has one meaning: a word the decoder accepts is the word the encoder gives, and its instruction is well
formed. No bit of an accepted word is ignored (R85, R88). -/
def Obligations.AcceptedWordIsItsEncoding : Prop :=
  ∀ (vw : Nat) (pw : PortWord) (i : Instr), decodeWord vw pw = .ok i → i.wf vw = true ∧ encode i = pw

/-! ## The step -/

/-- A step runs the decoded instruction. Idle: the first pending command word is taken from the port and its
instruction runs; the sentinel of the consumer likewise; any other micro-op word does nothing to the block. During a
RUN with budget left: the bus kind that is due. In each case the step only uses up one low sample of the reset line
beside. That inputs wait in a queue is the model's choice (notes/assumptions/7.md), that the consumer presents
micro-op words as inputs and executes the sentinel so is its reading of R92 and R153 (notes/assumptions/10.md), and
the reset samples are notes/assumptions/23.md. -/
def Obligations.StepRunsTheDecodedInstruction : Prop :=
  ∀ (s : State), NoReset s →
    (∀ w rest i, s.mode = .idle → s.env.pending = .cmd w :: rest → decode s.params.deferVW w = .ok i →
      step s = exec i (s.afterSample.takeCmd w rest)) ∧
    (∀ rest, s.mode = .idle → s.env.pending = .mop MOP_NEXT :: rest →
      step s = exec .mopNext (s.afterSample.withPending rest)) ∧
    (∀ m rest, s.mode = .idle → s.env.pending = .mop m :: rest → m ≠ MOP_NEXT →
      step s = .next (s.afterSample.withPending rest)) ∧
    (s.mode = .running → 0 < s.budget → step s = exec (instrOfKind s.dueKind) s.afterSample)

/-- R113, R120: which step is due. A Write and an internal step are due whatever the ready line is; a read-type
micro-step is due when the line is released, and a Ready operation while it is asserted. -/
def Obligations.ReadyLineHoldsOnlyReads : Prop :=
  ∀ (s : State), NoReset s → s.mode = .running → 0 < s.budget →
    (∀ a wd k, s.microStep = .bus .write a wd k → step s = exec .busWrite s.afterSample) ∧
    (∀ k, s.microStep = .int k → step s = exec .busNone s.afterSample) ∧
    (∀ a wd k, s.microStep = .bus .read a wd k →
      step s = exec (if s.rdyIn then .busReady else .busRead) s.afterSample) ∧
    (∀ a wd k, s.microStep = .bus .readOpcode a wd k →
      step s = exec (if s.rdyIn then .busReady else .busReadopcode) s.afterSample)

/-- The machine never stops: from every state, one step has a next state. A fault of the spec is such a state
(R213), and the two stops of the model are out of reach of `step`. -/
def Obligations.NoStepStops : Prop := ∀ s : State, SafeStep s

/-- R233: an idle block without an input keeps its whole state. -/
def Obligations.IdleBlockHoldsItsState : Prop :=
  ∀ s : State, s.mode = .idle → s.env.pending = [] → NoReset s → step s = .next s.afterSample

/-- Where the model stops, its own choice for what the block never does (R14, R95; notes/assumptions/8.md and 9.md): a
command during a RUN has no transition, and a bus kind has none unless the stepper is at a step of that kind. -/
def Obligations.NoTransitionOutsideItsPlace : Prop :=
  (∀ (s : State) (i : Instr), s.mode = .running → (∃ w, encode i = .cmd w) →
    exec i s = .refused .runInProgress) ∧
  (∀ (s : State) (b : BusKind), s.mode = .idle ∨ s.dueKind ≠ b →
    exec (instrOfKind b) s = .fault .notAtThisStep)

/-! ## Invariants -/

/-- The invariant holds right after reset, for the parameters and the environment State.reset is built with, which are
the model's choice where the spec leaves them open (notes/assumptions/2.md and 22.md). -/
def Obligations.InvariantHoldsAtReset : Prop := State.reset.Inv

/-- Every step keeps the invariant: the resume point, the address and the budget stay in range, the ring stays in its
discipline, a fault leaves the block idle, the deferred backlog keeps its depth and width, the memory and the store
stay in canonical form. -/
def Obligations.EveryStepKeepsTheInvariant : Prop :=
  ∀ s t : State, s.Inv → step s = .next t → t.Inv

/-- R154: the non-zero slots are the contiguous run of ring positions from `RIDX` up to but not including `WIDX`,
after reset and after every step, and their number is the number of outstanding programs. -/
def Obligations.RingStaysContiguous : Prop :=
  State.reset.RingOk ∧ (∀ s t : State, s.RingOk → step s = .next t → t.RingOk) ∧
    ∀ s : State, s.RingOk → s.outstanding ≤ 4 ∧ s.widx = s.ridx + BitVec.ofNat 2 s.outstanding ∧
      ∀ k : Nat, k < 4 → (s.slotAt (s.ridx + BitVec.ofNat 2 k) ≠ 0 ↔ k < s.outstanding)

/-- R10, R36: nothing the block is built with changes, not even by reset: the parameters, which handler is attached,
the course of the outside world, and REFHND's script. -/
def Obligations.NothingRebuildsTheBlock : Prop :=
  ∀ s t : State, step s = .next t →
    t.params = s.params ∧ t.env.handler = s.env.handler ∧ t.env.world = s.env.world ∧
      t.env.rdyScript = s.env.rdyScript ∧ t.env.rdyRest = s.env.rdyRest

/-- R52, R67, R93, R95: a step issues at most one bus operation and never rewrites what went before. An operation is
issued only during a RUN, its record is the one the step that is due asks for, field by field, and its answer is the
handler's: a Read, ReadOpcode or Write drives its own kind and its micro-step's address, with write data for a Write
alone; a Ready drives `LAST_ADDR`; an internal step drives nothing. That the log keeps the operations is
notes/assumptions/20.md, and the reduction to the bus widths notes/assumptions/14.md. -/
def Obligations.OneOperationAtATime : Prop :=
  ∀ s t : State, step s = .next t →
    ∃ evs, t.env.log = evs ++ s.env.log ∧ (busTrace evs).length ≤ 1 ∧
      ∀ x ∈ busTrace evs, s.mode = .running ∧ x.2 = busAnswer s.env x.1 ∧ x.1.kind = s.dueKind ∧
        (∀ a wd k, s.due = .access .read a wd k →
          x.1 = { kind := .read, addr := a % 2 ^ s.params.addrW, wdata := 0 }) ∧
        (∀ a wd k, s.due = .access .readOpcode a wd k →
          x.1 = { kind := .readOpcode, addr := a % 2 ^ s.params.addrW, wdata := 0 }) ∧
        (∀ a wd k, s.due = .access .write a wd k →
          x.1 = { kind := .write, addr := a % 2 ^ s.params.addrW, wdata := wd % 2 ^ s.params.dataW }) ∧
        (s.due = .spin → x.1 = { kind := .ready, addr := s.lastAddr, wdata := 0 }) ∧
        ∀ k, s.due ≠ .internal k

/-- A byte of the named handlers' memory changes only by the step that issues a Write at its address. -/
def Obligations.OnlyAWriteChangesAByte : Prop :=
  ∀ (s t : State) (a : Nat), Memory.wf s.env.mem → step s = .next t → t.byteAt a ≠ s.byteAt a →
    ∃ op ans, busTrace t.env.log = (op, ans) :: busTrace s.env.log ∧ op.kind = .write ∧ op.addr = a ∧
      t.byteAt a = BitVec.ofNat 8 op.wdata

/-- R14: while a RUN is in progress no input is taken and the program store does not change. -/
def Obligations.RunTakesNoInput : Prop :=
  ∀ s t : State, s.mode = .running → step s = .next t →
    t.env.pending = s.env.pending ∧ t.env.store = s.env.store

/-! ## RUN -/

/-- RUN n with `n >= 1` completes its grant: the budget grows by exactly `n` and the stepping loop begins; nothing
else changes. -/
def Obligations.RunGrantsItsCycles : Prop :=
  ∀ (s : State) (n : BitVec 32), s.mode = .idle → s.faultCode = 0 → 0 < n.toInt →
    ∃ t, exec (.run n) s = .next t ∧ t.mode = .running ∧ t.budget = s.budget + n.toInt ∧ t.rp = s.rp ∧
      t.inSpin = s.inSpin ∧ t.lastAddr = s.lastAddr ∧ t.noneRun = s.noneRun ∧ t.arch = s.arch ∧
      SameScheduler s t ∧ SameDeferred s t ∧ t.faultCode = s.faultCode ∧ t.params = s.params ∧
      t.draws = s.draws ∧ OnlyLogs [] s t

/-- R124: RUN n with `n <= 0` changes no state, drives no flush and responds 0. -/
def Obligations.RunWithoutCyclesIsNoOp : Prop :=
  ∀ (s : State) (n : BitVec 32), s.mode = .idle → s.faultCode = 0 → n.toInt ≤ 0 →
    ∃ t, exec (.run n) s = .next t ∧ SameBlock s t ∧ t.params = s.params ∧ t.draws = s.draws ∧
      OnlyLogs [.resp 0x0000000000000000] s t

/-- R125: the flush strobe is driven exactly once by the normal end of a RUN, between its last operation and its
response, also when a debt absorbed the whole grant, and by nothing else: no fault, no reset, no other step. -/
def Obligations.FlushExactlyAtTheNormalEnd : Prop :=
  ∀ s t : State, step s = .next t →
    (NoReset s ∧ s.mode = .running ∧ s.budget ≤ 0 →
      t.mode = .idle ∧ SamePosition s t ∧ SameScheduler s t ∧ SameDeferred s t ∧ t.faultCode = s.faultCode ∧
        t.env.log = .resp 0x0000000000000000 :: .flush :: s.env.log) ∧
    (¬ (NoReset s ∧ s.mode = .running ∧ s.budget ≤ 0) → flushCount t.env.log = flushCount s.env.log)

/-- R123: a RUN in progress ends, within `(NONE_LIMIT + 1)` steps for each cycle of its budget and one more, either
normally, with no budget left, a flush and a response, or by one of the two faults a step can raise, with the `ERR`
response and no flush. -/
def Obligations.EveryRunEnds : Prop :=
  ∀ s : State, s.mode = .running → s.faultCode = 0 → s.noneRun ≤ s.params.noneLimit → RstLow s →
    ∃ k t, k ≤ (s.params.noneLimit + 1) * s.budget.toNat + 1 ∧ runSteps k s = .next t ∧ t.mode = .idle ∧
      ((t.faultCode = 0 ∧ t.budget ≤ 0 ∧ flushCount t.env.log = flushCount s.env.log + 1 ∧
          ∃ l, t.env.log = .resp 0x0000000000000000 :: .flush :: l) ∨
        ((t.faultCode = FaultCode.costInvalid.code ∨ t.faultCode = FaultCode.noneLimit.code) ∧
          flushCount t.env.log = flushCount s.env.log ∧
          t.env.log.head? = some (.resp (errWord t.faultCode))))

/-- R114: over any sequence of commands and steps without a reset, the sum of the costs of all operations issued
equals the sum of all accepted grants minus what is left in the budget. -/
def Obligations.CostsEqualGrants : Prop :=
  ∀ (k : Nat) (s t : State), RstLow s → runSteps k s = .next t →
    busCost t.env.log - busCost s.env.log = grantedIn k s - (t.budget - s.budget)

/-- R127: a RUN n (`n >= 1`) started with `BUDGET = b0 <= 0` issues at most `max(0, b0 + n)` operations, exactly that
many when every cost is 1, and a run that ends without a fault leaves a budget between `-(2^16 - 2)` and 0; with every
cost 1 it leaves `min(b0 + n, 0)`. -/
def Obligations.RunKeepsItsBudgetBound : Prop :=
  ∀ (k : Nat) (s t : State) (w : CmdWord) (n : BitVec 32), s.mode = .idle → s.faultCode = 0 → s.budget ≤ 0 →
    -(2 ^ 16 - 2) ≤ s.budget → RstLow s → s.env.pending = [.cmd w] →
    decode s.params.deferVW w = .ok (.run n) → 0 < n.toInt →
    runSteps k s = .next t → t.mode = .idle → t.env.pending = [] →
    ∃ ops, busTrace t.env.log = ops ++ busTrace s.env.log ∧ (ops.length : Int) ≤ max 0 (s.budget + n.toInt) ∧
      (t.faultCode = 0 → -(2 ^ 16 - 2) ≤ t.budget ∧ t.budget ≤ 0 ∧
        ((∀ x ∈ ops, x.2.cost = 1) →
          (ops.length : Int) = max 0 (s.budget + n.toInt) ∧ t.budget = min (s.budget + n.toInt) 0))

/-- R128: with no debt, a read-type micro-step pending, the ready line asserted at every step and every Ready
operation costing 1, RUN N issues exactly N Ready operations, all at `LAST_ADDR`, and no other operation, and leaves
`RP`, `ARCH` and `LAST_ADDR` unchanged and `IN_SPIN = 1`. -/
def Obligations.ReadyLineHold : Prop :=
  ∀ (s : State) (w : CmdWord) (rest : List Input) (n : BitVec 32) (N : Nat), s.mode = .idle → s.faultCode = 0 →
    s.budget = 0 → s.env.rst = [] → s.env.pending = .cmd w :: rest →
    decode s.params.deferVW w = .ok (.run n) → n.toInt = N → 1 ≤ N →
    (∃ kind a wd k, s.microStep = .bus kind a wd k ∧ isReadType kind = true) →
    (∀ j, j < N → rdyLine (spinsFrom s.lastAddr j (s.takeCmd w rest).env) = true ∧
      (busAnswer (spinsFrom s.lastAddr j (s.takeCmd w rest).env) (spinOp s)).cost = 1) →
    ∃ t, runSteps (N + 2) s = .next t ∧ t.mode = .idle ∧ t.budget = 0 ∧ t.inSpin = true ∧ t.rp = s.rp ∧
      t.arch = s.arch ∧ t.lastAddr = s.lastAddr ∧ t.faultCode = 0 ∧
      (busTrace t.env.log).map Prod.fst = List.replicate N (spinOp s) ++ (busTrace s.env.log).map Prod.fst ∧
      flushCount t.env.log = flushCount s.env.log + 1

/-- R126: split invariance. For a handler whose answers and ready line depend only on the sequence of operations, and
provided no fault is raised, the commands RUN n1; ...; RUN nk issue the same operations with the same answers and
leave the same stepper state as the single RUN of their sum. -/
def Obligations.SplitInvariance : Prop :=
  ∀ (s t u : State) (ns : List (BitVec 32)) (n : BitVec 32) (k m : Nat), s.mode = .idle → s.faultCode = 0 →
    s.env.rst = [] → (∀ x ∈ ns, 0 ≤ x.toInt) → (ns.map BitVec.toInt).sum = n.toInt →
    HandlerByTrace (s.budget + n.toInt) s.env →
    runSteps k (s.withPending (ns.map fun x => .cmd (format32 0x01 x))) = .next t →
    runSteps m (s.withPending [.cmd (format32 0x01 n)]) = .next u →
    t.mode = .idle → t.env.pending = [] → t.faultCode = 0 →
    u.mode = .idle → u.env.pending = [] → u.faultCode = 0 →
    busTrace t.env.log = busTrace u.env.log ∧ t.rp = u.rp ∧ t.arch = u.arch ∧ t.budget = u.budget ∧
      t.inSpin = u.inSpin ∧ t.lastAddr = u.lastAddr ∧ t.noneRun = u.noneRun

/-! ## The steps of a RUN -/

/-- R115, for BUS_READ, BUS_READOPCODE and BUS_WRITE: an access that is due completes when its cost is not 0. The
operation it issues has the kind of the micro-step, its address and, for a Write alone, its data, each at its bus width
(R93; notes/assumptions/14.md). The continuation takes the stepper's own data for a Write and the handler's for a
read; `LAST_ADDR` is the address driven; a Write changes only the byte at that address, and a read changes none. -/
def Obligations.AccessStepCompletes : Prop :=
  ∀ (s : State) (kind : AccessKind) (i : Instr) (b : BusKind) (a wd : Nat)
    (k : Arch → Nat → Arch × Fin (s.seq.lastRp + 1)) (op : BusOp),
    (kind = .read ∧ i = .busRead ∧ b = .read ∨ kind = .readOpcode ∧ i = .busReadopcode ∧ b = .readOpcode ∨
      kind = .write ∧ i = .busWrite ∧ b = .write) →
    op = { kind := b, addr := a % 2 ^ s.params.addrW,
           wdata := if kind = .write then wd % 2 ^ s.params.dataW else 0 } →
    s.mode = .running → s.due = .access kind a wd k → Memory.wf s.env.mem → (busAnswer s.env op).cost ≠ 0 →
    ∃ t, exec i s = .next t ∧
      (t.arch, t.rp) = (let r := k s.arch (if kind = .write then wd % 2 ^ s.params.dataW
        else (busAnswer s.env op).rdata % 2 ^ s.params.dataW); (r.1, r.2.val)) ∧
      t.lastAddr = a % 2 ^ s.params.addrW ∧ t.inSpin = false ∧ t.noneRun = 0 ∧
      t.budget = s.budget - ((busAnswer s.env op).cost.toNat : Int) ∧
      t.mode = .running ∧ SameScheduler s t ∧ SameDeferred s t ∧ t.faultCode = s.faultCode ∧ SameBuild s t ∧
      t.draws = s.draws ∧ t.env.log = .bus op (busAnswer s.env op) :: s.env.log ∧
      (∀ x, x ≠ a % 2 ^ s.params.addrW ∨ kind ≠ .write → t.byteAt x = s.byteAt x) ∧
      (kind = .write → s.env.handler = .refhnd ∨ s.env.handler = .zerohnd →
        t.byteAt (a % 2 ^ s.params.addrW) = BitVec.ofNat 8 (wd % 2 ^ s.params.dataW))

/-- R118, for BUS_READY: a held read-type step is a Ready operation at `LAST_ADDR`: its cost is charged, `IN_SPIN` is
set, `NONE_RUN` is cleared, and the position, the architectural state and every byte of memory stay. -/
def Obligations.SpinStepCompletes : Prop :=
  ∀ s : State, s.mode = .running → s.due = .spin → (busAnswer s.env (spinOp s)).cost ≠ 0 →
    ∃ t, exec .busReady s = .next t ∧ t.inSpin = true ∧ t.noneRun = 0 ∧
      t.budget = s.budget - ((busAnswer s.env (spinOp s)).cost.toNat : Int) ∧ t.rp = s.rp ∧ t.arch = s.arch ∧
      t.lastAddr = s.lastAddr ∧ t.mode = .running ∧ SameScheduler s t ∧ SameDeferred s t ∧
      t.faultCode = s.faultCode ∧ SameBuild s t ∧ t.draws = s.draws ∧
      t.env.log = .bus { kind := .ready, addr := s.lastAddr, wdata := 0 } (busAnswer s.env (spinOp s)) ::
        s.env.log ∧
      ∀ b, t.byteAt b = s.byteAt b

/-- R116, for BUS_NONE: an internal step that is due runs its continuation and counts itself, with no bus operation, no
cost and no other change. -/
def Obligations.InternalStepCompletes : Prop :=
  ∀ (s : State) (k : Arch → Arch × Fin (s.seq.lastRp + 1)), s.mode = .running → s.due = .internal k →
    s.noneRun ≠ s.params.noneLimit →
    ∃ t, exec .busNone s = .next t ∧ t.arch = (k s.arch).1 ∧ t.rp = (k s.arch).2.val ∧
      t.noneRun = s.noneRun + 1 ∧ t.budget = s.budget ∧ t.inSpin = s.inSpin ∧ t.lastAddr = s.lastAddr ∧
      t.mode = .running ∧ SameScheduler s t ∧ SameDeferred s t ∧ t.faultCode = s.faultCode ∧
      t.params = s.params ∧ t.draws = s.draws ∧ OnlyLogs [] s t

/-- R218: a bus or spin step whose answer has cost 0 raises `COST_INVALID` after the handler has acted: the operation
is on the bus and the handler has moved on, and nothing of the block but the fault is written. -/
def Obligations.CostZeroFaults : Prop :=
  (∀ (s : State) (kind : AccessKind) (a wd : Nat) (k : Arch → Nat → Arch × Fin (s.seq.lastRp + 1)),
    s.mode = .running → s.due = .access kind a wd k →
    (busAnswer s.env (accessOp s.params kind a wd)).cost = 0 →
    ∃ t, exec (instrOfKind (busKindOf kind)) s = .next t ∧ FaultEntry .costInvalid s t ∧
      t.env = { issueOp s.env (accessOp s.params kind a wd) with
        log := .resp 0x8000000000000002 :: (issueOp s.env (accessOp s.params kind a wd)).log }) ∧
  (∀ s : State, s.mode = .running → s.due = .spin → (busAnswer s.env (spinOp s)).cost = 0 →
    ∃ t, exec .busReady s = .next t ∧ FaultEntry .costInvalid s t ∧
      t.env = { issueOp s.env (spinOp s) with
        log := .resp 0x8000000000000002 :: (issueOp s.env (spinOp s)).log })

/-- R219: an internal step taken when `NONE_RUN = NONE_LIMIT` raises `NONE_LIMIT`, with nothing else written. -/
def Obligations.InternalStepAtTheLimitFaults : Prop :=
  ∀ (s : State) (k : Arch → Arch × Fin (s.seq.lastRp + 1)), s.mode = .running → s.due = .internal k →
    s.noneRun = s.params.noneLimit →
    ∃ t, exec .busNone s = .next t ∧ FaultEntry .noneLimit s t ∧ OnlyLogs [.resp 0x8000000000000003] s t

/-- The stepper leaves the other units alone: RUN and the five bus kinds change no slot, no index, no step counter, no
deferred slot, no input that waits and no program. -/
def Obligations.StepperLeavesTheOtherUnits : Prop :=
  ∀ (s t : State) (i : Instr), ((∃ n, i = .run n) ∨ ∃ b, i = instrOfKind b) → exec i s = .next t →
    SameScheduler s t ∧ SameDeferred s t ∧ SameBuild s t ∧ t.draws = s.draws

/-! ## The scheduler -/

/-- R151: SCHED fills an empty write slot and advances the write index modulo 4; nothing else changes. -/
def Obligations.SchedAppendsAProgram : Prop :=
  ∀ (s : State) (pid : BitVec 16), s.mode = .idle → s.faultCode = 0 → pid ≠ 0 → s.slotAt s.widx = 0 →
    ∃ t, exec (.sched pid) s = .next t ∧ t.slotAt s.widx = pid ∧
      (∀ j, j ≠ s.widx → t.slotAt j = s.slotAt j) ∧ t.widx.toNat = (s.widx.toNat + 1) % 4 ∧ t.ridx = s.ridx ∧
      t.stepCtr = s.stepCtr ∧ SameStepper s t ∧ SameDeferred s t ∧ t.faultCode = 0 ∧ t.params = s.params ∧
      t.draws = s.draws ∧ OnlyLogs [.resp 0x0000000000000000] s t

/-- R152: FETCHOP answers the word at the step counter of the current program, zero-extended, and advances the step
counter by exactly 1; the program store is the one read at that moment. -/
def Obligations.FetchopReadsTheCurrentWord : Prop :=
  ∀ (s : State) (m : MopWord), s.mode = .idle → s.faultCode = 0 → Store.wf s.env.store →
    s.slotAt s.ridx ≠ 0 → (s.prog (s.slotAt s.ridx))[s.stepCtr.toNat]? = some m →
    ∃ t, exec .fetchop s = .next t ∧ t.stepCtr.toNat = s.stepCtr.toNat + 1 ∧ t.slots = s.slots ∧
      t.ridx = s.ridx ∧ t.widx = s.widx ∧ SameStepper s t ∧ SameDeferred s t ∧ t.faultCode = 0 ∧
      t.params = s.params ∧ t.draws = s.draws ∧ OnlyLogs [.resp (m.setWidth 64)] s t

/-- R153: NEXTPROG, and the sentinel MOP_NEXT whose action it is (notes/assumptions/10.md), clears the read slot,
advances the read index modulo 4 and zeroes the step counter; every other slot stays. -/
def Obligations.NextprogMovesOn : Prop :=
  ∀ (s : State) (i : Instr), i = .nextprog ∨ i = .mopNext → s.mode = .idle → s.faultCode = 0 →
    s.slotAt s.ridx ≠ 0 →
    ∃ t, exec i s = .next t ∧ t.slotAt s.ridx = 0 ∧ (∀ j, j ≠ s.ridx → t.slotAt j = s.slotAt j) ∧
      t.ridx.toNat = (s.ridx.toNat + 1) % 4 ∧ t.widx = s.widx ∧ t.stepCtr = 0 ∧ SameStepper s t ∧
      SameDeferred s t ∧ t.faultCode = 0 ∧ t.params = s.params ∧ t.draws = s.draws ∧
      OnlyLogs [.resp 0x0000000000000000] s t

/-- R56, R74, R247: a program the owner defines between two commands is the one the next FETCHOP reads, when it is the
current one; a fetch of any other program reads what it read before. No other program and no element of the block
changes. That the owner's change is an input of the idle block is the model's choice (notes/assumptions/7.md and
15.md). -/
def Obligations.OwnerChangesAreSeen : Prop :=
  ∀ (s : State) (pid : Pid) (ws : List MopWord) (rest : List Input), NoReset s → s.mode = .idle →
    s.env.pending = .program pid ws :: rest → Store.wf s.env.store →
    ∃ t, step s = .next t ∧ (∀ p, t.prog p = if p = pid then ws else s.prog p) ∧ SameBlock s t ∧
      t.params = s.params ∧ t.env.log = s.env.log ∧ t.env.pending = rest ∧ SameBus s t ∧
      (∀ m, s.faultCode = 0 → s.slotAt s.ridx ≠ 0 →
        (if s.slotAt s.ridx = pid then ws else s.prog (s.slotAt s.ridx))[s.stepCtr.toNat]? = some m →
        ∃ u, exec .fetchop t = .next u ∧ u.stepCtr = s.stepCtr + 1 ∧ OnlyLogs [.resp (m.setWidth 64)] t u) ∧
      (s.faultCode = 0 → s.slotAt s.ridx ≠ 0 →
        (if s.slotAt s.ridx = pid then ws else s.prog (s.slotAt s.ridx)).length ≤ s.stepCtr.toNat →
        ∃ u, exec .fetchop t = .next u ∧ FaultEntry .schedUnterminated t u)

/-! ## Dispatch and classification -/

/-- R170 to R172: DISPATCH start, end within the range emits exactly one perform event for each index of
`[start, end)`, in ascending order, all of them before the response: without a conversion the indices themselves, with
a table each index's entry; with parameters that meet the constraints every event is inside the perform index space.
Nothing else changes. The table form of CONVERT is notes/assumptions/19.md, the one transition
notes/assumptions/18.md. -/
def Obligations.DispatchPerformsTheRange : Prop :=
  ∀ (s : State) (first last : BitVec 12), s.mode = .idle → s.faultCode = 0 → first.toNat ≤ last.toNat →
    last.toNat ≤ s.params.dispatchN →
    ∃ (t : State) (js : List Nat), exec (.dispatch first last) s = .next t ∧ js.length = last.toNat - first.toNat ∧
      (s.params.convert = none → ∀ i, i < js.length → js[i]? = some (first.toNat + i)) ∧
      (∀ l, s.params.convert = some l → ∀ i j, i < js.length → l[first.toNat + i]? = some j → js[i]? = some j) ∧
      OnlyLogs (.resp 0x0000000000000000 :: (js.map Event.perform).reverse) s t ∧
      (ParamsOk s.params → ∀ j ∈ js, j < s.params.performM) ∧ SameBlock s t ∧ t.params = s.params ∧
      t.draws = s.draws

/-- R181, R182: the classifier's two levels. The primary field is the eight bits of the word at the field's positions,
index bit 0 first. The coarse class is the operation of the first matching pattern, or Undefined without one. An
operation's refinement is its entry of the table, and it holds of a word exactly when the word's bits under the mask
of some cube are that cube's value. A refinement keeps the class or downgrades it to Undefined, and an operation
without one is never downgraded. The data form of the tables, the order of the positions in it and its cubes are the
model's choice (notes/assumptions/17.md). -/
def Obligations.ClassifierTwoLevels : Prop :=
  (∀ (positions : List Nat) (iw : BitVec 32) (i b : Nat), positions.length = 8 → positions[i]? = some b →
    (fieldIndex positions iw).getLsbD i = iw.getLsbD b) ∧
  (∀ (p : Params) (idx : BitVec 8) (before after : List Pattern) (e : Pattern),
    p.decodePatterns = before ++ e :: after → (∀ f ∈ before, idx &&& f.mask ≠ f.value) →
    idx &&& e.mask = e.value → coarse p idx = e.op) ∧
  (∀ (p : Params) (idx : BitVec 8), (∀ f ∈ p.decodePatterns, idx &&& f.mask ≠ f.value) →
    coarse p idx = .undefined) ∧
  (∀ (p : Params) (c : Op) (before after : List (Op × List Cube)) (cubes : List Cube),
    p.decodeRefine = before ++ (c, cubes) :: after → (∀ r ∈ before, r.1 ≠ c) → refinement p c = some cubes) ∧
  (∀ (p : Params) (c : Op), (∀ r ∈ p.decodeRefine, r.1 ≠ c) → refinement p c = none) ∧
  (∀ (cubes : List Cube) (iw : BitVec 32),
    refineHolds cubes iw = true ↔ ∃ q ∈ cubes, iw &&& q.mask = q.value) ∧
  (∀ (p : Params) (iw : BitVec 32),
    (refinement p (coarse p (fieldIndex p.decodeField iw)) = none →
      classify p iw = coarse p (fieldIndex p.decodeField iw)) ∧
    (∀ cubes, refinement p (coarse p (fieldIndex p.decodeField iw)) = some cubes →
      classify p iw =
        if refineHolds cubes iw then coarse p (fieldIndex p.decodeField iw) else .undefined))

/-- R96, R185, R212: CLASSIFY answers the class code with `ERR` = 0 for every word and changes no state. The code of
Undefined is 0xFF; with parameters that meet the constraints the code of every other operation is the one the code
list gives it. -/
def Obligations.ClassifyAnswersTheCode : Prop :=
  ∀ (s : State) (iw : BitVec 32), s.mode = .idle → s.faultCode = 0 →
    ∃ (t : State) (code : ClassCode), exec (.classify iw) s = .next t ∧ SameBlock s t ∧ t.params = s.params ∧
      t.draws = s.draws ∧ OnlyLogs [.resp (code.setWidth 64)] s t ∧
      (classify s.params iw = .undefined → code = 0xFF) ∧
      (ParamsOk s.params → ∀ c, (classify s.params iw, c) ∈ s.params.classCode → code = c)

/-- R96, R183, R185: with parameters that meet the constraints, CLASSIFY of a word answers 0x00 exactly when the word
classifies as `AND`, and the all-zero word does. -/
def Obligations.ZeroWordIsAnd : Prop :=
  ∀ (s : State) (iw : BitVec 32), ParamsOk s.params → s.mode = .idle → s.faultCode = 0 →
    (exec (.classify iw) s = .next (s.emit (.resp 0x0000000000000000)) ↔ classify s.params iw = .dp 0) ∧
      exec (.classify 0) s = .next (s.emit (.resp 0x0000000000000000))

/-- R184: with parameters that meet the constraints, a word that matches a multiply pattern keeps its class exactly
when its bits [7:4] are 0b1001; otherwise it classifies as Undefined, whose code is 0xFF. -/
def Obligations.MultiplyNeedsItsBits : Prop :=
  ∀ (p : Params) (iw : BitVec 32) (acc sFlag : Bool), ParamsOk p →
    coarse p (fieldIndex p.decodeField iw) = .multiply acc sFlag →
    (iw.extractLsb' 4 4 = 0b1001 → classify p iw = .multiply acc sFlag ∧ classCodeOf p (classify p iw) ≠ 0xFF) ∧
    (iw.extractLsb' 4 4 ≠ 0b1001 → classify p iw = .undefined ∧ classCodeOf p (classify p iw) = 0xFF)

/-! ## The deferred pipeline -/

/-- R190: DVALUE answers the current slot's value, zero-extended, when it holds an inserted one, and changes no
state. -/
def Obligations.DvalueAnswersTheOldest : Prop :=
  ∀ (s : State) (v : BitVec 32), s.mode = .idle → s.faultCode = 0 →
    s.dslots[0]? = some { valid := true, value := v } →
    ∃ t, exec .dvalue s = .next t ∧ SameBlock s t ∧ t.params = s.params ∧ t.draws = s.draws ∧
      OnlyLogs [.resp (v.setWidth 64)] s t

/-- R191: DADVANCE moves every slot's valid bit and value one place down and leaves the newest slot without an
inserted value, for every depth of at least 1. What the newest slot's value field holds is not stated (U25). -/
def Obligations.DadvanceShifts : Prop :=
  ∀ s : State, s.mode = .idle → s.faultCode = 0 → s.dslots.length = s.params.deferD → 1 ≤ s.params.deferD →
    ∃ t, exec .dadvance s = .next t ∧ t.dslots.length = s.params.deferD ∧
      (∀ i, i + 1 < s.params.deferD → t.dslots[i]? = s.dslots[i + 1]?) ∧
      (t.dslots[s.params.deferD - 1]?).map DSlot.valid = some false ∧ SameStepper s t ∧ SameScheduler s t ∧
      t.faultCode = 0 ∧ t.params = s.params ∧ OnlyLogs [.resp 0x0000000000000000] s t

/-- R192: DINSERT writes the newest slot and no other. -/
def Obligations.DinsertWritesTheNewest : Prop :=
  ∀ (s : State) (v : BitVec 32), s.mode = .idle → s.faultCode = 0 → s.dslots.length = s.params.deferD →
    1 ≤ s.params.deferD → v.toNat < 2 ^ s.params.deferVW →
    ∃ t, exec (.dinsert v) s = .next t ∧ t.dslots.length = s.params.deferD ∧
      t.dslots[s.params.deferD - 1]? = some { valid := true, value := v } ∧
      (∀ i, i + 1 < s.params.deferD → t.dslots[i]? = s.dslots[i]?) ∧ SameStepper s t ∧ SameScheduler s t ∧
      t.faultCode = 0 ∧ t.params = s.params ∧ t.draws = s.draws ∧ OnlyLogs [.resp 0x0000000000000000] s t

/-- R193: an inserted value moves one place down with each DADVANCE, so that after exactly `DEFER_D - 1` of them it is
DVALUE's answer. -/
def Obligations.DeferredLatency : Prop :=
  ∀ (s : State) (v : BitVec 32) (j : Nat) (rest : List Input), s.mode = .idle → s.faultCode = 0 →
    s.env.rst = [] → s.dslots.length = s.params.deferD → 1 ≤ s.params.deferD → v.toNat < 2 ^ s.params.deferVW →
    j < s.params.deferD →
    s.env.pending =
      .cmd (format32 0x32 v) :: (List.replicate j (.cmd (formatN 0x31)) ++ .cmd (formatN 0x30) :: rest) →
    ∃ t, runSteps (j + 1) s = .next t ∧ t.mode = .idle ∧ t.faultCode = 0 ∧
      t.dslots[s.params.deferD - 1 - j]? = some { valid := true, value := v } ∧
      (j = s.params.deferD - 1 →
        ∃ u, step t = .next u ∧ u.env.log.head? = some (.resp (v.setWidth 64)) ∧ SameBlock t u)

/-- R62: the packed storage word holds slot `i`'s value at bits `[(i+1)*DEFER_VW - 1 : i*DEFER_VW]`. -/
def Obligations.PackedBacklogLayout : Prop :=
  ∀ (vw : Nat) (l : List DSlot) (i : Nat) (d : DSlot), l[i]? = some d → d.value.toNat < 2 ^ vw →
    packSlots vw l / 2 ^ (i * vw) % 2 ^ vw = d.value.toNat

/-! ## Status -/

/-- R200, R201: STATUS is answered with `ERR` = 0, also while faulted, and changes no state; every field of the word
stands where the table puts it and every reserved bit reads 0. -/
def Obligations.StatusWordFields : Prop :=
  ∀ s : State, s.mode = .idle →
    ∃ (t : State) (w : CmdWord), exec .status s = .next t ∧ SameBlock s t ∧ t.params = s.params ∧
      t.draws = s.draws ∧ OnlyLogs [.resp w] s t ∧ w.getLsbD 0 = s.inSpin ∧
      w.getLsbD 1 = decide (s.faultCode ≠ 0) ∧ w.extractLsb' 2 6 = 0 ∧ w.extractLsb' 8 8 = s.faultCode ∧
      w.extractLsb' 16 2 = s.ridx ∧ w.extractLsb' 18 2 = s.widx ∧
      (∀ k : BitVec 2, w.getLsbD (20 + k.toNat) = decide (s.slotAt k ≠ 0)) ∧ w.extractLsb' 24 40 = 0

/-! ## Faults and reset -/

/-- R220 to R224: each command's own faults. On the stated condition the command latches its code, answers with `ERR`
and writes nothing else; a faulting DISPATCH emits no event. That MOP_NEXT faults as NEXTPROG does is the model's
reading of R152 and R153 (notes/assumptions/10.md). That no other condition latches a code is
EveryFaultHasItsCause. -/
def Obligations.CommandFaults : Prop :=
  ∀ s : State, s.mode = .idle → s.faultCode = 0 →
    (∀ pid, pid ≠ 0 → s.slotAt s.widx ≠ 0 → ∃ t, exec (.sched pid) s = .next t ∧
      FaultEntry .schedOverflow s t ∧ OnlyLogs [.resp 0x8000000000000004] s t) ∧
    (∀ i, i = .fetchop ∨ i = .nextprog ∨ i = .mopNext → s.slotAt s.ridx = 0 → ∃ t, exec i s = .next t ∧
      FaultEntry .schedEmpty s t ∧ OnlyLogs [.resp 0x8000000000000005] s t) ∧
    (s.slotAt s.ridx ≠ 0 → (s.prog (s.slotAt s.ridx)).length ≤ s.stepCtr.toNat → ∃ t, exec .fetchop s = .next t ∧
      FaultEntry .schedUnterminated s t ∧ OnlyLogs [.resp 0x8000000000000006] s t) ∧
    (∀ first last : BitVec 12, ¬ (first.toNat ≤ last.toNat ∧ last.toNat ≤ s.params.dispatchN) →
      ∃ t, exec (.dispatch first last) s = .next t ∧ FaultEntry .dispatchRange s t ∧
        OnlyLogs [.resp 0x8000000000000007] s t) ∧
    (∀ d, s.dslots[0]? = some d → d.valid = false → ∃ t, exec .dvalue s = .next t ∧
      FaultEntry .deferUndefined s t ∧ OnlyLogs [.resp 0x8000000000000008] s t)

/-- R85, R216: a command word that decodes to Illegal latches `ILLEGAL_CMD` before any action of its own and changes
nothing else. -/
def Obligations.IllegalWordFaults : Prop :=
  ∀ (s : State) (w : CmdWord) (rest : List Input) (r : Reject), NoReset s → s.mode = .idle → s.faultCode = 0 →
    s.env.pending = .cmd w :: rest → decode s.params.deferVW w = .error r →
    ∃ t, step s = .next t ∧ FaultEntry .illegalCmd s t ∧ t.env.pending = rest ∧
      t.env.log = .resp 0x8000000000000001 :: .cmd w :: s.env.log ∧ SameBus s t ∧ t.env.store = s.env.store

/-- R214: while faulted, every command word but a legal STATUS is refused with the latched code and changes nothing;
a legal STATUS is answered. -/
def Obligations.GateRefusesAllButStatus : Prop :=
  ∀ (s : State) (w : CmdWord) (rest : List Input), NoReset s → s.mode = .idle → s.faultCode ≠ 0 →
    s.env.pending = .cmd w :: rest →
    (decode s.params.deferVW w ≠ .ok .status →
      step s = .next ((s.afterSample.takeCmd w rest).emit (.resp (errWord s.faultCode)))) ∧
    (decode s.params.deferVW w = .ok .status →
      step s = .next ((s.afterSample.takeCmd w rest).respond (s.statusWord.setWidth 63)))

/-- R213: fault entry is precise. Whatever step latches a fault, the block's other elements are as they were before
the step, the block is idle, the response is the `ERR` word of the code, and no flush and no perform event is driven. -/
def Obligations.FaultsArePrecise : Prop :=
  ∀ s t : State, NoReset s → s.faultCode = 0 → step s = .next t → t.faultCode ≠ 0 →
    t.mode = .idle ∧ SamePosition s t ∧ SameScheduler s t ∧ SameDeferred s t ∧
      t.env.log.head? = some (.resp (errWord t.faultCode)) ∧ flushCount t.env.log = flushCount s.env.log ∧
      performTrace t.env.log = performTrace s.env.log

/-- R211: which cause latches which code. A step that latches a fault latches one of the eight codes, for the cause
the table gives it. That a pending MOP_NEXT is a cause of code 5 beside FETCHOP and NEXTPROG is the model's reading of
R153, by which the consumer executes the sentinel as NEXTPROG (notes/assumptions/10.md). -/
def Obligations.EveryFaultHasItsCause : Prop :=
  ∀ s t : State, NoReset s → s.faultCode = 0 → step s = .next t → t.faultCode ≠ 0 →
    (t.faultCode = 1 ∧ s.mode = .idle ∧ ∃ w rest r, s.env.pending = .cmd w :: rest ∧
      decode s.params.deferVW w = .error r) ∨
    (t.faultCode = 2 ∧ s.mode = .running ∧ ∃ op, (busAnswer s.env op).cost = 0 ∧
      ((∃ kind a wd k, s.due = .access kind a wd k ∧ op = accessOp s.params kind a wd) ∨
        s.due = .spin ∧ op = spinOp s)) ∨
    (t.faultCode = 3 ∧ s.mode = .running ∧ s.noneRun = s.params.noneLimit ∧ ∃ k, s.due = .internal k) ∨
    (t.faultCode = 4 ∧ s.slotAt s.widx ≠ 0 ∧ ∃ w rest pid, s.env.pending = .cmd w :: rest ∧
      decode s.params.deferVW w = .ok (.sched pid)) ∨
    (t.faultCode = 5 ∧ s.slotAt s.ridx = 0 ∧ ((∃ w rest, s.env.pending = .cmd w :: rest ∧
      (decode s.params.deferVW w = .ok .fetchop ∨ decode s.params.deferVW w = .ok .nextprog)) ∨
        ∃ rest, s.env.pending = .mop MOP_NEXT :: rest)) ∨
    (t.faultCode = 6 ∧ (s.prog (s.slotAt s.ridx)).length ≤ s.stepCtr.toNat ∧ ∃ w rest,
      s.env.pending = .cmd w :: rest ∧ decode s.params.deferVW w = .ok .fetchop) ∨
    (t.faultCode = 7 ∧ ∃ w rest a b, s.env.pending = .cmd w :: rest ∧
      decode s.params.deferVW w = .ok (.dispatch a b) ∧
      ¬ (a.toNat ≤ b.toNat ∧ b.toNat ≤ s.params.dispatchN)) ∨
    (t.faultCode = 8 ∧ (∀ d, s.dslots[0]? = some d → d.valid = false) ∧ ∃ w rest,
      s.env.pending = .cmd w :: rest ∧ decode s.params.deferVW w = .ok .dvalue)

/-- R215: no command leaves the faulted state. However many steps follow without a reset, whatever inputs wait, the
whole state of the block stays, the code with it, and no bus operation, flush or perform event happens. -/
def Obligations.FaultLastsUntilReset : Prop :=
  ∀ (k : Nat) (s t : State), s.mode = .idle → s.faultCode ≠ 0 → RstLow s → runSteps k s = .next t →
    SameBlock s t ∧ SameBus s t ∧ flushCount t.env.log = flushCount s.env.log ∧
      performTrace t.env.log = performTrace s.env.log

/-- R240: reset sets every element of the block's state, in every mode and while faulted, and touches neither the
handler, the memory behind it, the program store nor any port but its own. -/
def Obligations.ResetSetsEveryElement : Prop :=
  ∀ s : State, s.env.rst.head? = some true →
    ∃ t, step s = .next t ∧ t.mode = .idle ∧ t.rp = 0 ∧ t.budget = 0 ∧ t.inSpin = false ∧
      t.lastAddr = s.params.lastAddrReset ∧ t.noneRun = 0 ∧ t.arch = s.seq.archReset ∧
      (∀ k, t.slotAt k = 0) ∧ t.ridx = 0 ∧ t.widx = 0 ∧ t.stepCtr = 0 ∧
      t.dslots.length = s.params.deferD ∧ (∀ d ∈ t.dslots, d.valid = false) ∧ t.faultCode = 0 ∧
      t.params = s.params ∧ t.env = { s.env with rst := s.env.rst.tail, log := .rst :: s.env.log }

/-! ## The units do not disturb each other -/

/-- No command but RUN touches the stepper or the bus or costs a cycle: the scheduler's by R155, DISPATCH by R173, the
pipeline's by R194, CLASSIFY by R185, STATUS by R201. That the sentinel MOP_NEXT does not either is the model's
reading of R153, by which it is NEXTPROG's action (notes/assumptions/10.md). -/
def Obligations.AuxiliaryCommandsLeaveTheStepper : Prop :=
  ∀ (s t : State) (i : Instr), (∀ n, i ≠ .run n) → (∀ b, i ≠ instrOfKind b) → exec i s = .next t →
    SameStepper s t ∧ SameBus s t ∧ SameBuild s t ∧ flushCount t.env.log = flushCount s.env.log

/-- The auxiliary units do not disturb each other: the scheduler's instructions leave the deferred backlog, the
pipeline's leave the scheduler, and DISPATCH, CLASSIFY and STATUS leave both. Only DISPATCH reaches the perform channel
(R50): no other instruction, RUN and the bus kinds among them, emits a perform event. What it says of MOP_NEXT is the
model's reading of R153 (notes/assumptions/10.md). -/
def Obligations.AuxiliaryUnitsAreSeparate : Prop :=
  ∀ (s t : State) (i : Instr), exec i s = .next t →
    ((∃ pid, i = .sched pid) ∨ i = .fetchop ∨ i = .nextprog ∨ i = .mopNext → SameDeferred s t ∧ t.draws = s.draws) ∧
    (i = .dvalue ∨ i = .dadvance ∨ (∃ v, i = .dinsert v) → SameScheduler s t) ∧
    ((∃ a b, i = .dispatch a b) ∨ (∃ iw, i = .classify iw) ∨ i = .status →
      SameScheduler s t ∧ SameDeferred s t ∧ t.draws = s.draws) ∧
    ((∀ a b, i ≠ .dispatch a b) → performTrace t.env.log = performTrace s.env.log)
end

