-- ==== Sys2Proof/Laws/State.lean ====
section
/-! SUPPORT. One lemma for each field of the state and each update of it, true by `rfl`; the composite updates are
rewritten to the plain ones. -/

namespace Sys2Proof.Machine

variable (s : State)

/-! ## `emit` -/

@[simp] theorem emit_mode (ev : Event) : (s.emit ev).mode = s.mode := rfl
@[simp] theorem emit_rp (ev : Event) : (s.emit ev).rp = s.rp := rfl
@[simp] theorem emit_budget (ev : Event) : (s.emit ev).budget = s.budget := rfl
@[simp] theorem emit_inSpin (ev : Event) : (s.emit ev).inSpin = s.inSpin := rfl
@[simp] theorem emit_lastAddr (ev : Event) : (s.emit ev).lastAddr = s.lastAddr := rfl
@[simp] theorem emit_noneRun (ev : Event) : (s.emit ev).noneRun = s.noneRun := rfl
@[simp] theorem emit_arch (ev : Event) : (s.emit ev).arch = s.arch := rfl
@[simp] theorem emit_slots (ev : Event) : (s.emit ev).slots = s.slots := rfl
@[simp] theorem emit_ridx (ev : Event) : (s.emit ev).ridx = s.ridx := rfl
@[simp] theorem emit_widx (ev : Event) : (s.emit ev).widx = s.widx := rfl
@[simp] theorem emit_stepCtr (ev : Event) : (s.emit ev).stepCtr = s.stepCtr := rfl
@[simp] theorem emit_dslots (ev : Event) : (s.emit ev).dslots = s.dslots := rfl
@[simp] theorem emit_faultCode (ev : Event) : (s.emit ev).faultCode = s.faultCode := rfl
@[simp] theorem emit_params (ev : Event) : (s.emit ev).params = s.params := rfl
@[simp] theorem emit_draws (ev : Event) : (s.emit ev).draws = s.draws := rfl
@[simp] theorem emit_env_pending (ev : Event) : (s.emit ev).env.pending = s.env.pending := rfl
@[simp] theorem emit_env_rst (ev : Event) : (s.emit ev).env.rst = s.env.rst := rfl
@[simp] theorem emit_env_store (ev : Event) : (s.emit ev).env.store = s.env.store := rfl
@[simp] theorem emit_env_handler (ev : Event) : (s.emit ev).env.handler = s.env.handler := rfl
@[simp] theorem emit_env_world (ev : Event) : (s.emit ev).env.world = s.env.world := rfl
@[simp] theorem emit_env_answers (ev : Event) : (s.emit ev).env.answers = s.env.answers := rfl
@[simp] theorem emit_env_mem (ev : Event) : (s.emit ev).env.mem = s.env.mem := rfl
@[simp] theorem emit_env_opCount (ev : Event) : (s.emit ev).env.opCount = s.env.opCount := rfl
@[simp] theorem emit_env_rdyScript (ev : Event) : (s.emit ev).env.rdyScript = s.env.rdyScript := rfl
@[simp] theorem emit_env_rdyRest (ev : Event) : (s.emit ev).env.rdyRest = s.env.rdyRest := rfl
@[simp] theorem emit_env_log (ev : Event) : (s.emit ev).env.log = ev :: s.env.log := rfl

/-! ## `emitAll` -/

@[simp] theorem emitAll_mode (evs : List Event) : (s.emitAll evs).mode = s.mode := rfl
@[simp] theorem emitAll_rp (evs : List Event) : (s.emitAll evs).rp = s.rp := rfl
@[simp] theorem emitAll_budget (evs : List Event) : (s.emitAll evs).budget = s.budget := rfl
@[simp] theorem emitAll_inSpin (evs : List Event) : (s.emitAll evs).inSpin = s.inSpin := rfl
@[simp] theorem emitAll_lastAddr (evs : List Event) : (s.emitAll evs).lastAddr = s.lastAddr := rfl
@[simp] theorem emitAll_noneRun (evs : List Event) : (s.emitAll evs).noneRun = s.noneRun := rfl
@[simp] theorem emitAll_arch (evs : List Event) : (s.emitAll evs).arch = s.arch := rfl
@[simp] theorem emitAll_slots (evs : List Event) : (s.emitAll evs).slots = s.slots := rfl
@[simp] theorem emitAll_ridx (evs : List Event) : (s.emitAll evs).ridx = s.ridx := rfl
@[simp] theorem emitAll_widx (evs : List Event) : (s.emitAll evs).widx = s.widx := rfl
@[simp] theorem emitAll_stepCtr (evs : List Event) : (s.emitAll evs).stepCtr = s.stepCtr := rfl
@[simp] theorem emitAll_dslots (evs : List Event) : (s.emitAll evs).dslots = s.dslots := rfl
@[simp] theorem emitAll_faultCode (evs : List Event) : (s.emitAll evs).faultCode = s.faultCode := rfl
@[simp] theorem emitAll_params (evs : List Event) : (s.emitAll evs).params = s.params := rfl
@[simp] theorem emitAll_draws (evs : List Event) : (s.emitAll evs).draws = s.draws := rfl
@[simp] theorem emitAll_env_pending (evs : List Event) : (s.emitAll evs).env.pending = s.env.pending := rfl
@[simp] theorem emitAll_env_rst (evs : List Event) : (s.emitAll evs).env.rst = s.env.rst := rfl
@[simp] theorem emitAll_env_store (evs : List Event) : (s.emitAll evs).env.store = s.env.store := rfl
@[simp] theorem emitAll_env_handler (evs : List Event) : (s.emitAll evs).env.handler = s.env.handler := rfl
@[simp] theorem emitAll_env_world (evs : List Event) : (s.emitAll evs).env.world = s.env.world := rfl
@[simp] theorem emitAll_env_answers (evs : List Event) : (s.emitAll evs).env.answers = s.env.answers := rfl
@[simp] theorem emitAll_env_mem (evs : List Event) : (s.emitAll evs).env.mem = s.env.mem := rfl
@[simp] theorem emitAll_env_opCount (evs : List Event) : (s.emitAll evs).env.opCount = s.env.opCount := rfl
@[simp] theorem emitAll_env_rdyScript (evs : List Event) : (s.emitAll evs).env.rdyScript = s.env.rdyScript := rfl
@[simp] theorem emitAll_env_rdyRest (evs : List Event) : (s.emitAll evs).env.rdyRest = s.env.rdyRest := rfl
@[simp] theorem emitAll_env_log (evs : List Event) : (s.emitAll evs).env.log = evs.reverse ++ s.env.log := rfl

/-! ## `setSlot` -/

@[simp] theorem setSlot_mode (i : BitVec 2) (pid : Pid) : (s.setSlot i pid).mode = s.mode := rfl
@[simp] theorem setSlot_rp (i : BitVec 2) (pid : Pid) : (s.setSlot i pid).rp = s.rp := rfl
@[simp] theorem setSlot_budget (i : BitVec 2) (pid : Pid) : (s.setSlot i pid).budget = s.budget := rfl
@[simp] theorem setSlot_inSpin (i : BitVec 2) (pid : Pid) : (s.setSlot i pid).inSpin = s.inSpin := rfl
@[simp] theorem setSlot_lastAddr (i : BitVec 2) (pid : Pid) : (s.setSlot i pid).lastAddr = s.lastAddr := rfl
@[simp] theorem setSlot_noneRun (i : BitVec 2) (pid : Pid) : (s.setSlot i pid).noneRun = s.noneRun := rfl
@[simp] theorem setSlot_arch (i : BitVec 2) (pid : Pid) : (s.setSlot i pid).arch = s.arch := rfl
@[simp] theorem setSlot_slots (i : BitVec 2) (pid : Pid) : (s.setSlot i pid).slots = s.slots.set i.toNat pid i.isLt := rfl
@[simp] theorem setSlot_ridx (i : BitVec 2) (pid : Pid) : (s.setSlot i pid).ridx = s.ridx := rfl
@[simp] theorem setSlot_widx (i : BitVec 2) (pid : Pid) : (s.setSlot i pid).widx = s.widx := rfl
@[simp] theorem setSlot_stepCtr (i : BitVec 2) (pid : Pid) : (s.setSlot i pid).stepCtr = s.stepCtr := rfl
@[simp] theorem setSlot_dslots (i : BitVec 2) (pid : Pid) : (s.setSlot i pid).dslots = s.dslots := rfl
@[simp] theorem setSlot_faultCode (i : BitVec 2) (pid : Pid) : (s.setSlot i pid).faultCode = s.faultCode := rfl
@[simp] theorem setSlot_params (i : BitVec 2) (pid : Pid) : (s.setSlot i pid).params = s.params := rfl
@[simp] theorem setSlot_draws (i : BitVec 2) (pid : Pid) : (s.setSlot i pid).draws = s.draws := rfl
@[simp] theorem setSlot_env_pending (i : BitVec 2) (pid : Pid) : (s.setSlot i pid).env.pending = s.env.pending := rfl
@[simp] theorem setSlot_env_rst (i : BitVec 2) (pid : Pid) : (s.setSlot i pid).env.rst = s.env.rst := rfl
@[simp] theorem setSlot_env_store (i : BitVec 2) (pid : Pid) : (s.setSlot i pid).env.store = s.env.store := rfl
@[simp] theorem setSlot_env_handler (i : BitVec 2) (pid : Pid) : (s.setSlot i pid).env.handler = s.env.handler := rfl
@[simp] theorem setSlot_env_world (i : BitVec 2) (pid : Pid) : (s.setSlot i pid).env.world = s.env.world := rfl
@[simp] theorem setSlot_env_answers (i : BitVec 2) (pid : Pid) : (s.setSlot i pid).env.answers = s.env.answers := rfl
@[simp] theorem setSlot_env_mem (i : BitVec 2) (pid : Pid) : (s.setSlot i pid).env.mem = s.env.mem := rfl
@[simp] theorem setSlot_env_opCount (i : BitVec 2) (pid : Pid) : (s.setSlot i pid).env.opCount = s.env.opCount := rfl
@[simp] theorem setSlot_env_rdyScript (i : BitVec 2) (pid : Pid) : (s.setSlot i pid).env.rdyScript = s.env.rdyScript := rfl
@[simp] theorem setSlot_env_rdyRest (i : BitVec 2) (pid : Pid) : (s.setSlot i pid).env.rdyRest = s.env.rdyRest := rfl
@[simp] theorem setSlot_env_log (i : BitVec 2) (pid : Pid) : (s.setSlot i pid).env.log = s.env.log := rfl

/-! ## `issue` -/

@[simp] theorem issue_mode (op : BusOp) : (s.issue op).mode = s.mode := rfl
@[simp] theorem issue_rp (op : BusOp) : (s.issue op).rp = s.rp := rfl
@[simp] theorem issue_budget (op : BusOp) : (s.issue op).budget = s.budget := rfl
@[simp] theorem issue_inSpin (op : BusOp) : (s.issue op).inSpin = s.inSpin := rfl
@[simp] theorem issue_lastAddr (op : BusOp) : (s.issue op).lastAddr = s.lastAddr := rfl
@[simp] theorem issue_noneRun (op : BusOp) : (s.issue op).noneRun = s.noneRun := rfl
@[simp] theorem issue_arch (op : BusOp) : (s.issue op).arch = s.arch := rfl
@[simp] theorem issue_slots (op : BusOp) : (s.issue op).slots = s.slots := rfl
@[simp] theorem issue_ridx (op : BusOp) : (s.issue op).ridx = s.ridx := rfl
@[simp] theorem issue_widx (op : BusOp) : (s.issue op).widx = s.widx := rfl
@[simp] theorem issue_stepCtr (op : BusOp) : (s.issue op).stepCtr = s.stepCtr := rfl
@[simp] theorem issue_dslots (op : BusOp) : (s.issue op).dslots = s.dslots := rfl
@[simp] theorem issue_faultCode (op : BusOp) : (s.issue op).faultCode = s.faultCode := rfl
@[simp] theorem issue_params (op : BusOp) : (s.issue op).params = s.params := rfl
@[simp] theorem issue_draws (op : BusOp) : (s.issue op).draws = s.draws := rfl
@[simp] theorem issue_env_pending (op : BusOp) : (s.issue op).env.pending = s.env.pending := rfl
@[simp] theorem issue_env_rst (op : BusOp) : (s.issue op).env.rst = s.env.rst := rfl
@[simp] theorem issue_env_store (op : BusOp) : (s.issue op).env.store = s.env.store := rfl
@[simp] theorem issue_env_handler (op : BusOp) : (s.issue op).env.handler = s.env.handler := rfl
@[simp] theorem issue_env_world (op : BusOp) : (s.issue op).env.world = s.env.world := rfl
@[simp] theorem issue_env_answers (op : BusOp) : (s.issue op).env.answers = answersAfter s.env := rfl
@[simp] theorem issue_env_mem (op : BusOp) : (s.issue op).env.mem = memAfter s.env op := rfl
@[simp] theorem issue_env_opCount (op : BusOp) : (s.issue op).env.opCount = s.env.opCount + 1 := rfl
@[simp] theorem issue_env_rdyScript (op : BusOp) : (s.issue op).env.rdyScript = s.env.rdyScript := rfl
@[simp] theorem issue_env_rdyRest (op : BusOp) : (s.issue op).env.rdyRest = s.env.rdyRest := rfl
@[simp] theorem issue_env_log (op : BusOp) : (s.issue op).env.log = .bus op (busAnswer s.env op) :: s.env.log := rfl

/-! ## `withPending` -/

@[simp] theorem withPending_mode (rest : List Input) : (s.withPending rest).mode = s.mode := rfl
@[simp] theorem withPending_rp (rest : List Input) : (s.withPending rest).rp = s.rp := rfl
@[simp] theorem withPending_budget (rest : List Input) : (s.withPending rest).budget = s.budget := rfl
@[simp] theorem withPending_inSpin (rest : List Input) : (s.withPending rest).inSpin = s.inSpin := rfl
@[simp] theorem withPending_lastAddr (rest : List Input) : (s.withPending rest).lastAddr = s.lastAddr := rfl
@[simp] theorem withPending_noneRun (rest : List Input) : (s.withPending rest).noneRun = s.noneRun := rfl
@[simp] theorem withPending_arch (rest : List Input) : (s.withPending rest).arch = s.arch := rfl
@[simp] theorem withPending_slots (rest : List Input) : (s.withPending rest).slots = s.slots := rfl
@[simp] theorem withPending_ridx (rest : List Input) : (s.withPending rest).ridx = s.ridx := rfl
@[simp] theorem withPending_widx (rest : List Input) : (s.withPending rest).widx = s.widx := rfl
@[simp] theorem withPending_stepCtr (rest : List Input) : (s.withPending rest).stepCtr = s.stepCtr := rfl
@[simp] theorem withPending_dslots (rest : List Input) : (s.withPending rest).dslots = s.dslots := rfl
@[simp] theorem withPending_faultCode (rest : List Input) : (s.withPending rest).faultCode = s.faultCode := rfl
@[simp] theorem withPending_params (rest : List Input) : (s.withPending rest).params = s.params := rfl
@[simp] theorem withPending_draws (rest : List Input) : (s.withPending rest).draws = s.draws := rfl
@[simp] theorem withPending_env_pending (rest : List Input) : (s.withPending rest).env.pending = rest := rfl
@[simp] theorem withPending_env_rst (rest : List Input) : (s.withPending rest).env.rst = s.env.rst := rfl
@[simp] theorem withPending_env_store (rest : List Input) : (s.withPending rest).env.store = s.env.store := rfl
@[simp] theorem withPending_env_handler (rest : List Input) : (s.withPending rest).env.handler = s.env.handler := rfl
@[simp] theorem withPending_env_world (rest : List Input) : (s.withPending rest).env.world = s.env.world := rfl
@[simp] theorem withPending_env_answers (rest : List Input) : (s.withPending rest).env.answers = s.env.answers := rfl
@[simp] theorem withPending_env_mem (rest : List Input) : (s.withPending rest).env.mem = s.env.mem := rfl
@[simp] theorem withPending_env_opCount (rest : List Input) : (s.withPending rest).env.opCount = s.env.opCount := rfl
@[simp] theorem withPending_env_rdyScript (rest : List Input) : (s.withPending rest).env.rdyScript = s.env.rdyScript := rfl
@[simp] theorem withPending_env_rdyRest (rest : List Input) : (s.withPending rest).env.rdyRest = s.env.rdyRest := rfl
@[simp] theorem withPending_env_log (rest : List Input) : (s.withPending rest).env.log = s.env.log := rfl

/-! ## `withRst` -/

@[simp] theorem withRst_mode (r : List Bool) : (s.withRst r).mode = s.mode := rfl
@[simp] theorem withRst_rp (r : List Bool) : (s.withRst r).rp = s.rp := rfl
@[simp] theorem withRst_budget (r : List Bool) : (s.withRst r).budget = s.budget := rfl
@[simp] theorem withRst_inSpin (r : List Bool) : (s.withRst r).inSpin = s.inSpin := rfl
@[simp] theorem withRst_lastAddr (r : List Bool) : (s.withRst r).lastAddr = s.lastAddr := rfl
@[simp] theorem withRst_noneRun (r : List Bool) : (s.withRst r).noneRun = s.noneRun := rfl
@[simp] theorem withRst_arch (r : List Bool) : (s.withRst r).arch = s.arch := rfl
@[simp] theorem withRst_slots (r : List Bool) : (s.withRst r).slots = s.slots := rfl
@[simp] theorem withRst_ridx (r : List Bool) : (s.withRst r).ridx = s.ridx := rfl
@[simp] theorem withRst_widx (r : List Bool) : (s.withRst r).widx = s.widx := rfl
@[simp] theorem withRst_stepCtr (r : List Bool) : (s.withRst r).stepCtr = s.stepCtr := rfl
@[simp] theorem withRst_dslots (r : List Bool) : (s.withRst r).dslots = s.dslots := rfl
@[simp] theorem withRst_faultCode (r : List Bool) : (s.withRst r).faultCode = s.faultCode := rfl
@[simp] theorem withRst_params (r : List Bool) : (s.withRst r).params = s.params := rfl
@[simp] theorem withRst_draws (r : List Bool) : (s.withRst r).draws = s.draws := rfl
@[simp] theorem withRst_env_pending (r : List Bool) : (s.withRst r).env.pending = s.env.pending := rfl
@[simp] theorem withRst_env_rst (r : List Bool) : (s.withRst r).env.rst = r := rfl
@[simp] theorem withRst_env_store (r : List Bool) : (s.withRst r).env.store = s.env.store := rfl
@[simp] theorem withRst_env_handler (r : List Bool) : (s.withRst r).env.handler = s.env.handler := rfl
@[simp] theorem withRst_env_world (r : List Bool) : (s.withRst r).env.world = s.env.world := rfl
@[simp] theorem withRst_env_answers (r : List Bool) : (s.withRst r).env.answers = s.env.answers := rfl
@[simp] theorem withRst_env_mem (r : List Bool) : (s.withRst r).env.mem = s.env.mem := rfl
@[simp] theorem withRst_env_opCount (r : List Bool) : (s.withRst r).env.opCount = s.env.opCount := rfl
@[simp] theorem withRst_env_rdyScript (r : List Bool) : (s.withRst r).env.rdyScript = s.env.rdyScript := rfl
@[simp] theorem withRst_env_rdyRest (r : List Bool) : (s.withRst r).env.rdyRest = s.env.rdyRest := rfl
@[simp] theorem withRst_env_log (r : List Bool) : (s.withRst r).env.log = s.env.log := rfl

/-! ## `defineProg` -/

@[simp] theorem defineProg_mode (pid : Pid) (ws : List MopWord) : (s.defineProg pid ws).mode = s.mode := rfl
@[simp] theorem defineProg_rp (pid : Pid) (ws : List MopWord) : (s.defineProg pid ws).rp = s.rp := rfl
@[simp] theorem defineProg_budget (pid : Pid) (ws : List MopWord) : (s.defineProg pid ws).budget = s.budget := rfl
@[simp] theorem defineProg_inSpin (pid : Pid) (ws : List MopWord) : (s.defineProg pid ws).inSpin = s.inSpin := rfl
@[simp] theorem defineProg_lastAddr (pid : Pid) (ws : List MopWord) : (s.defineProg pid ws).lastAddr = s.lastAddr := rfl
@[simp] theorem defineProg_noneRun (pid : Pid) (ws : List MopWord) : (s.defineProg pid ws).noneRun = s.noneRun := rfl
@[simp] theorem defineProg_arch (pid : Pid) (ws : List MopWord) : (s.defineProg pid ws).arch = s.arch := rfl
@[simp] theorem defineProg_slots (pid : Pid) (ws : List MopWord) : (s.defineProg pid ws).slots = s.slots := rfl
@[simp] theorem defineProg_ridx (pid : Pid) (ws : List MopWord) : (s.defineProg pid ws).ridx = s.ridx := rfl
@[simp] theorem defineProg_widx (pid : Pid) (ws : List MopWord) : (s.defineProg pid ws).widx = s.widx := rfl
@[simp] theorem defineProg_stepCtr (pid : Pid) (ws : List MopWord) : (s.defineProg pid ws).stepCtr = s.stepCtr := rfl
@[simp] theorem defineProg_dslots (pid : Pid) (ws : List MopWord) : (s.defineProg pid ws).dslots = s.dslots := rfl
@[simp] theorem defineProg_faultCode (pid : Pid) (ws : List MopWord) : (s.defineProg pid ws).faultCode = s.faultCode := rfl
@[simp] theorem defineProg_params (pid : Pid) (ws : List MopWord) : (s.defineProg pid ws).params = s.params := rfl
@[simp] theorem defineProg_draws (pid : Pid) (ws : List MopWord) : (s.defineProg pid ws).draws = s.draws := rfl
@[simp] theorem defineProg_env_pending (pid : Pid) (ws : List MopWord) : (s.defineProg pid ws).env.pending = s.env.pending := rfl
@[simp] theorem defineProg_env_rst (pid : Pid) (ws : List MopWord) : (s.defineProg pid ws).env.rst = s.env.rst := rfl
@[simp] theorem defineProg_env_store (pid : Pid) (ws : List MopWord) : (s.defineProg pid ws).env.store = defineProgram s.env.store pid ws := rfl
@[simp] theorem defineProg_env_handler (pid : Pid) (ws : List MopWord) : (s.defineProg pid ws).env.handler = s.env.handler := rfl
@[simp] theorem defineProg_env_world (pid : Pid) (ws : List MopWord) : (s.defineProg pid ws).env.world = s.env.world := rfl
@[simp] theorem defineProg_env_answers (pid : Pid) (ws : List MopWord) : (s.defineProg pid ws).env.answers = s.env.answers := rfl
@[simp] theorem defineProg_env_mem (pid : Pid) (ws : List MopWord) : (s.defineProg pid ws).env.mem = s.env.mem := rfl
@[simp] theorem defineProg_env_opCount (pid : Pid) (ws : List MopWord) : (s.defineProg pid ws).env.opCount = s.env.opCount := rfl
@[simp] theorem defineProg_env_rdyScript (pid : Pid) (ws : List MopWord) : (s.defineProg pid ws).env.rdyScript = s.env.rdyScript := rfl
@[simp] theorem defineProg_env_rdyRest (pid : Pid) (ws : List MopWord) : (s.defineProg pid ws).env.rdyRest = s.env.rdyRest := rfl
@[simp] theorem defineProg_env_log (pid : Pid) (ws : List MopWord) : (s.defineProg pid ws).env.log = s.env.log := rfl

/-! ## The composite updates -/

@[simp] theorem respond_eq (v : Payload) : s.respond v = s.emit (.resp (okWord v)) := rfl
@[simp] theorem respondFault_eq : s.respondFault = s.emit (.resp (errWord s.faultCode)) := rfl
@[simp] theorem raise_eq (c : FaultCode) :
    s.raise c = ({ s with faultCode := c.code, mode := .idle } : State).emit (.resp (errWord c.code)) := rfl
@[simp] theorem takeCmd_eq (w : CmdWord) (rest : List Input) :
    s.takeCmd w rest = (s.withPending rest).emit (.cmd w) := rfl
@[simp] theorem finishRun_eq :
    s.finishRun = (({ s with mode := .idle } : State).emit .flush).emit (.resp (okWord 0)) := rfl

end Sys2Proof.Machine
end

