-- ==== Sys2Proof/Laws/Slots.lean ====
section
/-! SUPPORT. The laws of the scheduler's slots and of the deferred backlog's shift. -/

namespace Sys2Proof.Machine

/-- A slot reads back after it is written, and no other slot changes. -/
theorem slotAt_setSlot (s : State) (i : BitVec 2) (pid : Pid) (j : BitVec 2) :
    (s.setSlot i pid).slotAt j = if j = i then pid else s.slotAt j := by
  have h : i.toNat = j.toNat ↔ j = i :=
    ⟨fun e => BitVec.eq_of_toNat_eq e.symm, fun e => by rw [e]⟩
  simp only [State.slotAt, setSlot_slots, Vector.getElem_set, h]

/-- An update that keeps the slots keeps every slot. -/
theorem slotAt_congr {s t : State} (h : t.slots = s.slots) (i : BitVec 2) : t.slotAt i = s.slotAt i := by
  simp only [State.slotAt, h]

@[simp] theorem slotAt_emit (s : State) (ev : Event) (i : BitVec 2) : (s.emit ev).slotAt i = s.slotAt i := rfl

/-- The shift keeps the depth of a non-empty backlog. -/
theorem shiftSlots_length (fresh : DSlot) {l : List DSlot} (h : 1 ≤ l.length) :
    (shiftSlots fresh l).length = l.length := by
  simp only [shiftSlots, List.length_append, List.length_tail, List.length_singleton]
  omega

/-- After the shift every slot but the newest holds what its successor held. -/
theorem shiftSlots_getElem? (fresh : DSlot) (l : List DSlot) (i : Nat) (h : i + 1 < l.length) :
    (shiftSlots fresh l)[i]? = l[i + 1]? := by
  rw [shiftSlots, List.getElem?_append_left (by simp only [List.length_tail]; omega), List.getElem?_tail]

/-- A slot after the shift is the fresh one or one of the old ones. -/
theorem mem_shiftSlots {fresh : DSlot} {l : List DSlot} {x : DSlot} (h : x ∈ shiftSlots fresh l) :
    x = fresh ∨ x ∈ l := by
  rcases List.mem_append.1 h with h | h
  · exact .inr (List.mem_of_mem_tail h)
  · exact .inl (List.mem_singleton.1 h)

/-- Reset leaves `DEFER_D` slots. -/
theorem freshSlots_length (vw d n : Nat) : (freshSlots vw d n).length = d := by
  induction d generalizing n with
  | zero => rfl
  | succ d ih => simp only [freshSlots, List.length_cons, ih]

/-- A slot without an inserted value is invalid and still `bits(DEFER_VW)`. -/
theorem fresh_value (vw n : Nat) : (DSlot.fresh vw n).valid = false ∧ (DSlot.fresh vw n).value.toNat < 2 ^ vw := by
  refine ⟨rfl, ?_⟩
  show ((Config.deferFree n).toNat % 2 ^ vw) % 2 ^ 32 < 2 ^ vw
  exact Nat.lt_of_le_of_lt (Nat.mod_le _ _) (Nat.mod_lt _ (Nat.two_pow_pos vw))

/-- After reset every deferred slot is invalid and in range. -/
theorem mem_freshSlots {vw d n : Nat} {x : DSlot} (h : x ∈ freshSlots vw d n) :
    x.valid = false ∧ x.value.toNat < 2 ^ vw := by
  induction d generalizing n with
  | zero => simp [freshSlots] at h
  | succ d ih =>
    rcases List.mem_cons.1 h with rfl | h
    · exact fresh_value vw n
    · exact ih h

end Sys2Proof.Machine
end

