-- ==== Sys2Proof/Laws/Steps.lean ====
section
/-! SUPPORT. What each shared operation and one step can do, said once: if it answers a next state, then one of the
cases holds. -/

namespace Sys2Proof.Machine

/-- A command other than STATUS that answers a next state: no RUN is in progress, and the gate or the command's own
rule has answered. -/
theorem command_cases {act : State → State} {s t : State} (h : s.command act = .next t) :
    s.mode = .idle ∧ (s.faultCode ≠ 0 ∧ t = s.respondFault ∨ s.faultCode = 0 ∧ t = act s) := by
  unfold State.command at h
  split at h
  · cases h
  · rename_i hm
    have hm : s.mode = .idle := by cases e : s.mode <;> simp_all
    split at h <;> cases h
    · exact ⟨hm, .inl ⟨‹_›, rfl⟩⟩
    · exact ⟨hm, .inr ⟨by simp_all, rfl⟩⟩

/-- A command of an idle block with no fault latched runs its own rule. -/
theorem command_open {act : State → State} {s : State} (hm : s.mode = .idle) (hf : s.faultCode = 0) :
    s.command act = .next (act s) := by
  simp [State.command, hm, hf]

/-- A command of a faulted idle block is refused by the gate. -/
theorem command_gated {act : State → State} {s : State} (hm : s.mode = .idle) (hf : s.faultCode ≠ 0) :
    s.command act = .next s.respondFault := by
  rw [State.command, if_neg (by simp [hm]), if_pos hf]

/-- The state after a completed access (R115). -/
def accessDone {n : Nat} (kind : AccessKind) (addr wdata : Nat) (k : Arch → Nat → Arch × Fin (n + 1))
    (s : State) : State :=
  let op := accessOp s.params kind addr wdata
  let ans := busAnswer s.env op
  let r := k s.arch (accessData s.params kind wdata ans)
  { s.issue op with
    arch := r.1, rp := r.2.val, lastAddr := op.addr, inSpin := false, noneRun := 0,
    budget := s.budget - ans.cost.toNat }

/-- The bus step faults on cost 0 and completes otherwise. -/
theorem busStep_eq {n : Nat} (kind : AccessKind) (addr wdata : Nat) (k : Arch → Nat → Arch × Fin (n + 1))
    (s : State) :
    s.busStep kind addr wdata k =
      if (busAnswer s.env (accessOp s.params kind addr wdata)).cost = 0
      then (s.issue (accessOp s.params kind addr wdata)).raise .costInvalid
      else accessDone kind addr wdata k s := rfl

/-- A step of one access kind that answers a next state: the stepper was at such a step. -/
theorem accessStep_cases {want : AccessKind} {s t : State} (h : s.accessStep want = .next t) :
    s.mode = .running ∧ ∃ addr wdata k, s.due = .access want addr wdata k ∧ t = s.busStep want addr wdata k := by
  unfold State.accessStep at h
  split at h
  · rename_i kind addr wdata k hm hd
    split at h
    · rename_i hk
      subst hk
      cases h
      exact ⟨hm, addr, wdata, k, hd, rfl⟩
    · cases h
  · cases h

/-- A Ready step that answers a next state: the stepper was held. -/
theorem execBusReady_cases {s t : State} (h : execBusReady s = .next t) :
    s.mode = .running ∧ s.due = .spin ∧ t = s.spinStep := by
  unfold execBusReady at h
  split at h <;> cases h
  exact ⟨‹_›, ‹_›, rfl⟩

/-- An internal step that answers a next state. -/
theorem execBusNone_cases {s t : State} (h : execBusNone s = .next t) :
    s.mode = .running ∧ ∃ k, s.due = .internal k ∧ t = s.intStep k := by
  unfold execBusNone at h
  split at h <;> cases h
  exact ⟨‹_›, _, ‹_›, rfl⟩

/-- `step` is the work of the boundary. -/
theorem step_of_run {s u : State} {i : Instr} (h : s.work = .run i u) : step s = exec i u := by
  simp only [step, h]

theorem step_of_done {s t : State} (h : s.work = .done t) : step s = .next t := by
  simp only [step, h]

/-! ## What a sample of the reset line leaves alone -/

/-- The ready line does not see the reset samples. -/
theorem rdyLine_withRst (e : Env) (r : List Bool) : rdyLine { e with rst := r } = rdyLine e := by
  unfold rdyLine
  cases e.handler <;> rfl

/-- Nor does the handler's answer. -/
theorem busAnswer_withRst (e : Env) (r : List Bool) (op : BusOp) :
    busAnswer { e with rst := r } op = busAnswer e op := by
  unfold busAnswer
  cases e.handler <;> rfl

theorem afterSample_rdyIn (s : State) : s.afterSample.rdyIn = s.rdyIn := rdyLine_withRst _ _

theorem afterSample_busAnswer (s : State) (op : BusOp) : busAnswer s.afterSample.env op = busAnswer s.env op :=
  busAnswer_withRst _ _ op

/-- The coming step is the one that was due before the sample. -/
theorem afterSample_due (s : State) : s.afterSample.due = s.due :=
  congrArg (fun b => dueOf b s.microStep) (afterSample_rdyIn s)

theorem afterSample_dueKind (s : State) : s.afterSample.dueKind = s.dueKind :=
  congrArg (fun b => (dueOf b s.microStep).kind) (afterSample_rdyIn s)

/-- A line that stays low has no sample to use up. -/
theorem afterSample_of_low {s : State} (h : s.env.rst = []) : s.afterSample = s := by
  unfold State.afterSample State.withRst
  rw [h, List.tail_nil, ← h]

/-! ## The step -/

/-- During a RUN the step's instruction runs the step that is due (R113). -/
theorem exec_due {s : State} (hm : s.mode = .running) :
    exec (instrOfKind s.dueKind) s =
      .next (match s.due with
        | .access kind addr wdata k => s.busStep kind addr wdata k
        | .spin => s.spinStep
        | .internal k => s.intStep k) := by
  rw [State.dueKind]
  cases hd : s.due with
  | access kind addr wdata k =>
    cases kind <;>
      simp only [Due.kind, busKindOf, instrOfKind, exec, execBusRead, execBusReadopcode, execBusWrite, State.accessStep,
        hm, hd, if_true]
  | spin => simp only [Due.kind, instrOfKind, exec, execBusReady, hm, hd]
  | internal k => simp only [Due.kind, instrOfKind, exec, execBusNone, hm, hd]

/-- With the reset line low, the work is that of the live block. -/
theorem work_noReset {s : State} (h : s.env.rst.head? ≠ some true) : s.work = s.afterSample.liveWork :=
  if_neg h

/-- With the reset line asserted, the step is a reset. -/
theorem work_reset {s : State} (h : s.env.rst.head? = some true) : s.work = .done s.afterSample.resetBlock :=
  if_pos h

/-- Everything one step can do. -/
theorem step_cases {s t : State} (h : step s = .next t) :
    (s.env.rst.head? = some true ∧ t = s.afterSample.resetBlock) ∨
    (s.env.rst.head? ≠ some true ∧
      ((s.mode = .running ∧ 0 < s.budget ∧
          ((∃ kind addr wdata k, s.afterSample.due = .access kind addr wdata k ∧
              t = s.afterSample.busStep kind addr wdata k) ∨
            (s.afterSample.due = .spin ∧ t = s.afterSample.spinStep) ∨
            (∃ k, s.afterSample.due = .internal k ∧ t = s.afterSample.intStep k))) ∨
        (s.mode = .running ∧ s.budget ≤ 0 ∧ t = s.afterSample.finishRun) ∨
        (s.mode = .idle ∧ s.env.pending = [] ∧ t = s.afterSample) ∨
        (∃ w rest i, s.mode = .idle ∧ s.env.pending = .cmd w :: rest ∧ decode s.params.deferVW w = .ok i ∧
          exec i (s.afterSample.takeCmd w rest) = .next t) ∨
        (∃ w rest e, s.mode = .idle ∧ s.env.pending = .cmd w :: rest ∧ decode s.params.deferVW w = .error e ∧
          t = (s.afterSample.takeCmd w rest).rejectWord) ∨
        (∃ m rest i, s.mode = .idle ∧ s.env.pending = .mop m :: rest ∧ decodeMop m = .ok i ∧
          exec i (s.afterSample.withPending rest) = .next t) ∨
        (∃ m rest e, s.mode = .idle ∧ s.env.pending = .mop m :: rest ∧ decodeMop m = .error e ∧
          t = s.afterSample.withPending rest) ∨
        (∃ pid ws rest, s.mode = .idle ∧ s.env.pending = .program pid ws :: rest ∧
          t = (s.afterSample.withPending rest).defineProg pid ws))) := by
  by_cases hr : s.env.rst.head? = some true
  · rw [step_of_done (work_reset hr)] at h
    cases h
    exact .inl ⟨hr, rfl⟩
  refine .inr ⟨hr, ?_⟩
  have hw := work_noReset hr
  unfold State.liveWork at hw
  have hmode : s.afterSample.mode = s.mode := rfl
  have hbud : s.afterSample.budget = s.budget := rfl
  have hpend : s.afterSample.env.pending = s.env.pending := rfl
  have hvw : s.afterSample.params.deferVW = s.params.deferVW := rfl
  cases hm : s.mode with
  | running =>
    simp only [hmode, hm, State.runWork] at hw
    split at hw
    · rename_i hb
      rw [step_of_run hw, exec_due (hmode.trans hm)] at h
      refine .inl ⟨rfl, hb, ?_⟩
      cases hd : s.afterSample.due with
      | access kind addr wdata k =>
        simp only [hd] at h
        cases h
        exact .inl ⟨kind, addr, wdata, k, rfl, rfl⟩
      | spin =>
        simp only [hd] at h
        cases h
        exact .inr (.inl ⟨rfl, rfl⟩)
      | internal k =>
        simp only [hd] at h
        cases h
        exact .inr (.inr ⟨k, rfl, rfl⟩)
    · rename_i hb
      rw [step_of_done hw] at h
      cases h
      exact .inr (.inl ⟨rfl, by rw [← hbud]; omega, rfl⟩)
  | idle =>
    simp only [hmode, hm, State.idleWork] at hw
    rw [hpend, hvw] at hw
    refine .inr (.inr ?_)
    split at hw
    · rename_i hp
      rw [step_of_done hw] at h
      cases h
      exact .inl ⟨rfl, hp, rfl⟩
    · rename_i w rest hp
      split at hw
      · rename_i i hd
        rw [step_of_run hw] at h
        exact .inr (.inl ⟨w, rest, i, rfl, hp, hd, h⟩)
      · rename_i e hd
        rw [step_of_done hw] at h
        cases h
        exact .inr (.inr (.inl ⟨w, rest, e, rfl, hp, hd, rfl⟩))
    · rename_i m rest hp
      split at hw
      · rename_i i hd
        rw [step_of_run hw] at h
        exact .inr (.inr (.inr (.inl ⟨m, rest, i, rfl, hp, hd, h⟩)))
      · rename_i e hd
        rw [step_of_done hw] at h
        cases h
        exact .inr (.inr (.inr (.inr (.inl ⟨m, rest, e, rfl, hp, hd, rfl⟩))))
    · rename_i pid ws rest hp
      rw [step_of_done hw] at h
      cases h
      exact .inr (.inr (.inr (.inr (.inr ⟨pid, ws, rest, rfl, hp, rfl⟩))))

/-- A command word never stands for a bus kind. -/
theorem decode_notKind {vw : Nat} {w : CmdWord} {i : Instr} (h : decode vw w = .ok i) (b : BusKind) :
    i ≠ instrOfKind b := by
  rintro rfl
  unfold decode withFormat at h
  split at h <;> (repeat' split at h) <;> cases b <;> simp [instrOfKind] at h

/-- The sentinel is the only micro-op word with a meaning. -/
theorem decodeMop_ok {m : MopWord} {i : Instr} (h : decodeMop m = .ok i) : i = .mopNext := by
  unfold decodeMop at h
  split at h <;> cases h
  rfl

end Sys2Proof.Machine
end

