-- ==== Sys2Proof/Laws/Commands.lean ====
section
/-! SUPPORT. What each command can do, said once: if it answers a next state, then no RUN is in progress and the state
is one of those listed. -/

namespace Sys2Proof.Machine

/-- What a command other than STATUS can do: the gate's refusal, or one of its own outcomes. -/
def Answered (s t : State) (own : Prop) : Prop :=
  s.mode = .idle ∧ (s.faultCode ≠ 0 ∧ t = s.respondFault ∨ s.faultCode = 0 ∧ own)

/-- The command frame with the outcomes of the command's own rule. -/
theorem command_answered {act : State → State} {s t : State} {own : Prop} (h : s.command act = .next t)
    (hown : t = act s → own) : Answered s t own := by
  obtain ⟨hm, hf | hf⟩ := command_cases h
  · exact ⟨hm, .inl hf⟩
  · exact ⟨hm, .inr ⟨hf.1, hown hf.2⟩⟩

/-- RUN: a no-op for a grant of at most 0, else the grant and the start of the loop. -/
theorem execRun_cases {n : BitVec 32} {s t : State} (h : exec (.run n) s = .next t) :
    Answered s t (n.toInt ≤ 0 ∧ t = s.respond 0 ∨
      0 < n.toInt ∧ t = { s with budget := s.budget + n.toInt, mode := .running }) := by
  simp only [exec, execRun] at h
  refine command_answered h fun e => ?_
  by_cases hn : n.toInt ≤ 0
  · exact .inl ⟨hn, e.trans (if_pos hn)⟩
  · exact .inr ⟨by omega, e.trans (if_neg hn)⟩

/-- SCHED: the illegal operand, the overflow, or the slot filled. -/
theorem execSched_cases {pid : BitVec 16} {s t : State} (h : exec (.sched pid) s = .next t) :
    Answered s t (pid = 0 ∧ t = s.raise .illegalCmd ∨
      pid ≠ 0 ∧ s.slotAt s.widx ≠ 0 ∧ t = s.raise .schedOverflow ∨
      pid ≠ 0 ∧ s.slotAt s.widx = 0 ∧ t = ({ s.setSlot s.widx pid with widx := s.widx + 1 }).respond 0) := by
  simp only [exec, execSched] at h
  refine command_answered h fun e => ?_
  by_cases hp : pid = 0
  · exact .inl ⟨hp, by subst hp; exact e⟩
  · have hl : (!pidLegal pid) = false := by simpa [pidLegal] using hp
    simp only [hl, Bool.false_eq_true, if_false] at e
    by_cases hs : s.slotAt s.widx = 0
    · exact .inr (.inr ⟨hp, hs, by rw [e, if_neg (by simp [hs])]⟩)
    · exact .inr (.inl ⟨hp, hs, by rw [e, if_pos hs]⟩)

/-- The move to the next program: the empty ring, or the slot cleared. -/
theorem moveToNext_cases (s : State) :
    s.slotAt s.ridx = 0 ∧ s.moveToNext = s.raise .schedEmpty ∨
    s.slotAt s.ridx ≠ 0 ∧
      s.moveToNext = ({ s.setSlot s.ridx 0 with ridx := s.ridx + 1, stepCtr := 0 }).respond 0 := by
  unfold State.moveToNext
  by_cases hs : s.slotAt s.ridx = 0
  · exact .inl ⟨hs, if_pos hs⟩
  · exact .inr ⟨hs, if_neg hs⟩

/-- NEXTPROG and MOP_NEXT. -/
theorem execNext_cases {i : Instr} {s t : State} (hi : i = .nextprog ∨ i = .mopNext) (h : exec i s = .next t) :
    Answered s t (s.slotAt s.ridx = 0 ∧ t = s.raise .schedEmpty ∨
      s.slotAt s.ridx ≠ 0 ∧ t = ({ s.setSlot s.ridx 0 with ridx := s.ridx + 1, stepCtr := 0 }).respond 0) := by
  rcases hi with rfl | rfl <;>
  · simp only [exec, execNextprog, execMopNext] at h
    refine command_answered h fun e => ?_
    rcases moveToNext_cases s with ⟨hs, hm⟩ | ⟨hs, hm⟩
    · exact .inl ⟨hs, e.trans hm⟩
    · exact .inr ⟨hs, e.trans hm⟩

/-- FETCHOP: the empty ring, the program's end, or its next word. -/
theorem execFetchop_cases {s t : State} (h : exec .fetchop s = .next t) :
    Answered s t (s.slotAt s.ridx = 0 ∧ t = s.raise .schedEmpty ∨
      s.slotAt s.ridx ≠ 0 ∧ (s.prog (s.slotAt s.ridx)).length ≤ s.stepCtr.toNat ∧
        t = s.raise .schedUnterminated ∨
      ∃ m, s.slotAt s.ridx ≠ 0 ∧ (s.prog (s.slotAt s.ridx))[s.stepCtr.toNat]? = some m ∧
        t = ({ s with stepCtr := s.stepCtr + 1 }).respond (m.setWidth 63)) := by
  simp only [exec, execFetchop] at h
  refine command_answered h fun e => ?_
  by_cases hs : s.slotAt s.ridx = 0
  · exact .inl ⟨hs, by rw [e, if_pos hs]⟩
  · rw [if_neg hs] at e
    cases hp : (s.prog (s.slotAt s.ridx))[s.stepCtr.toNat]? with
    | none => exact .inr (.inl ⟨hs, List.getElem?_eq_none_iff.1 hp, by rw [e, hp]⟩)
    | some m => exact .inr (.inr ⟨m, hs, rfl, by rw [e, hp]⟩)

/-- DISPATCH: the range fault, or the events of the range. -/
theorem execDispatch_cases {first last : BitVec 12} {s t : State} (h : exec (.dispatch first last) s = .next t) :
    Answered s t (¬ (first.toNat ≤ last.toNat ∧ last.toNat ≤ s.params.dispatchN) ∧ t = s.raise .dispatchRange ∨
      (first.toNat ≤ last.toNat ∧ last.toNat ≤ s.params.dispatchN) ∧
        t = (s.emitAll (performEvents s.params first.toNat last.toNat)).respond 0) := by
  simp only [exec, execDispatch] at h
  refine command_answered h fun e => ?_
  by_cases hr : first.toNat ≤ last.toNat ∧ last.toNat ≤ s.params.dispatchN
  · exact .inr ⟨hr, e.trans (if_neg (by simp [rangeLegal, hr]))⟩
  · exact .inl ⟨hr, e.trans (if_pos (by simp only [rangeLegal, hr, decide_false, Bool.not_false]))⟩

/-- DVALUE: the oldest value, or the fault. -/
theorem execDvalue_cases {s t : State} (h : exec .dvalue s = .next t) :
    Answered s t ((∀ d, s.dslots[0]? = some d → d.valid = false) ∧ t = s.raise .deferUndefined ∨
      ∃ v, s.dslots[0]? = some { valid := true, value := v } ∧ t = s.respond (v.setWidth 63)) := by
  simp only [exec, execDvalue] at h
  refine command_answered h fun e => ?_
  cases hd : s.dslots with
  | nil => exact .inl ⟨by simp, by rw [e, hd]⟩
  | cons d l =>
    obtain ⟨valid, v⟩ := d
    cases valid with
    | false => exact .inl ⟨by simp, by rw [e, hd]; rfl⟩
    | true => exact .inr ⟨v, by simp, by rw [e, hd]; rfl⟩

/-- DADVANCE always shifts. -/
theorem execDadvance_cases {s t : State} (h : exec .dadvance s = .next t) :
    Answered s t (t = ({ s with
        dslots := shiftSlots (DSlot.fresh s.params.deferVW s.draws) s.dslots
        draws := s.draws + 1 }).respond 0) := by
  simp only [exec, execDadvance] at h
  exact command_answered h id

/-- DINSERT: the illegal operand, or the newest slot written. -/
theorem execDinsert_cases {v : BitVec 32} {s t : State} (h : exec (.dinsert v) s = .next t) :
    Answered s t (2 ^ s.params.deferVW ≤ v.toNat ∧ t = s.raise .illegalCmd ∨
      v.toNat < 2 ^ s.params.deferVW ∧
        t = ({ s with dslots := s.dslots.set (s.params.deferD - 1) { valid := true, value := v } }).respond 0) := by
  simp only [exec, execDinsert] at h
  refine command_answered h fun e => ?_
  by_cases hv : v.toNat < 2 ^ s.params.deferVW
  · exact .inr ⟨hv, e.trans (if_neg (by simp [deferLegal, hv]))⟩
  · exact .inl ⟨by omega, e.trans (if_pos (by simpa [deferLegal] using hv))⟩

/-- CLASSIFY always answers a code. -/
theorem execClassify_cases {iw : BitVec 32} {s t : State} (h : exec (.classify iw) s = .next t) :
    Answered s t (t = s.respond ((classCodeOf s.params (classify s.params iw)).setWidth 63)) := by
  simp only [exec, execClassify] at h
  exact command_answered h id

/-- STATUS always answers, faulted or not. -/
theorem execStatus_cases {s t : State} (h : exec .status s = .next t) :
    s.mode = .idle ∧ t = s.respond (s.statusWord.setWidth 63) := by
  simp only [exec, execStatus] at h
  split at h <;> cases h
  exact ⟨‹_›, rfl⟩

/-! ## What every command leaves alone -/

/-- The stepper's elements a command never writes. -/
def KeepsPosition (s t : State) : Prop :=
  t.rp = s.rp ∧ t.inSpin = s.inSpin ∧ t.lastAddr = s.lastAddr ∧ t.noneRun = s.noneRun ∧ t.arch = s.arch

/-- An event of the response or the perform port. -/
def Event.IsAnswer (e : Event) : Prop := (∃ w, e = .resp w) ∨ ∃ j, e = .perform j

/-- The frame of an answered command: the outside world keeps everything but its log, which has only responses and
perform events more; the block keeps its position, and its mode and budget too unless a grant was accepted. -/
def CommandFrame (i : Instr) (s t : State) : Prop :=
  (∃ evs, t.env = { s.env with log := evs ++ s.env.log } ∧ ∀ e ∈ evs, Event.IsAnswer e) ∧ t.params = s.params ∧
    KeepsPosition s t ∧
    (t.mode = .idle ∧ t.budget = s.budget ∨
      ∃ n, i = .run n ∧ s.faultCode = 0 ∧ 0 < n.toInt ∧
        t = { s with budget := s.budget + n.toInt, mode := .running })

/-- One response is a frame. -/
theorem commandFrame_one {i : Instr} {s t : State} {w : CmdWord}
    (he : t.env = { s.env with log := .resp w :: s.env.log }) (hp : t.params = s.params) (hk : KeepsPosition s t)
    (hm : t.mode = .idle) (hb : t.budget = s.budget) : CommandFrame i s t :=
  ⟨⟨[.resp w], he, fun _ h => .inl ⟨w, List.mem_singleton.1 h⟩⟩, hp, hk, .inl ⟨hm, hb⟩⟩

theorem commandFrame_respondFault {i : Instr} {s : State} (hm : s.mode = .idle) :
    CommandFrame i s s.respondFault := commandFrame_one rfl rfl ⟨rfl, rfl, rfl, rfl, rfl⟩ hm rfl

theorem commandFrame_raise {i : Instr} (s : State) (c : FaultCode) : CommandFrame i s (s.raise c) :=
  commandFrame_one rfl rfl ⟨rfl, rfl, rfl, rfl, rfl⟩ rfl rfl

/-- Every command and the sentinel keep the frame. -/
theorem exec_commandFrame {i : Instr} {s t : State} (hi : ∀ b, i ≠ instrOfKind b) (h : exec i s = .next t) :
    s.mode = .idle ∧ CommandFrame i s t := by
  have answered : ∀ {own : Prop}, Answered s t own → (s.mode = .idle → s.faultCode = 0 → own → CommandFrame i s t) →
      s.mode = .idle ∧ CommandFrame i s t := by
    rintro own ⟨hm, ⟨-, rfl⟩ | ⟨hf, ho⟩⟩ k
    · exact ⟨hm, commandFrame_respondFault hm⟩
    · exact ⟨hm, k hm hf ho⟩
  cases i with
  | run n =>
    refine answered (execRun_cases h) fun hm hf ho => ?_
    rcases ho with ⟨-, rfl⟩ | ⟨hn, rfl⟩
    · exact commandFrame_one rfl rfl ⟨rfl, rfl, rfl, rfl, rfl⟩ hm rfl
    · exact ⟨⟨[], rfl, by simp⟩, rfl, ⟨rfl, rfl, rfl, rfl, rfl⟩, .inr ⟨n, rfl, hf, hn, rfl⟩⟩
  | sched pid =>
    refine answered (execSched_cases h) fun hm _ ho => ?_
    rcases ho with ⟨-, rfl⟩ | ⟨-, -, rfl⟩ | ⟨-, -, rfl⟩
    · exact commandFrame_raise _ _
    · exact commandFrame_raise _ _
    · exact commandFrame_one rfl rfl ⟨rfl, rfl, rfl, rfl, rfl⟩ hm rfl
  | nextprog =>
    refine answered (execNext_cases (.inl rfl) h) fun hm _ ho => ?_
    rcases ho with ⟨-, rfl⟩ | ⟨-, rfl⟩
    · exact commandFrame_raise _ _
    · exact commandFrame_one rfl rfl ⟨rfl, rfl, rfl, rfl, rfl⟩ hm rfl
  | mopNext =>
    refine answered (execNext_cases (.inr rfl) h) fun hm _ ho => ?_
    rcases ho with ⟨-, rfl⟩ | ⟨-, rfl⟩
    · exact commandFrame_raise _ _
    · exact commandFrame_one rfl rfl ⟨rfl, rfl, rfl, rfl, rfl⟩ hm rfl
  | fetchop =>
    refine answered (execFetchop_cases h) fun hm _ ho => ?_
    rcases ho with ⟨-, rfl⟩ | ⟨-, -, rfl⟩ | ⟨m, -, -, rfl⟩
    · exact commandFrame_raise _ _
    · exact commandFrame_raise _ _
    · exact commandFrame_one rfl rfl ⟨rfl, rfl, rfl, rfl, rfl⟩ hm rfl
  | dispatch first last =>
    refine answered (execDispatch_cases h) fun hm _ ho => ?_
    rcases ho with ⟨-, rfl⟩ | ⟨-, rfl⟩
    · exact commandFrame_raise _ _
    · refine ⟨⟨.resp (okWord 0) :: (performEvents s.params first.toNat last.toNat).reverse, rfl, fun e he => ?_⟩,
        rfl, ⟨rfl, rfl, rfl, rfl, rfl⟩, .inl ⟨hm, rfl⟩⟩
      rcases List.mem_cons.1 he with rfl | he
      · exact .inl ⟨_, rfl⟩
      · obtain ⟨j, -, rfl⟩ := List.mem_map.1 (List.mem_reverse.1 he)
        exact .inr ⟨_, rfl⟩
  | dvalue =>
    refine answered (execDvalue_cases h) fun hm _ ho => ?_
    rcases ho with ⟨-, rfl⟩ | ⟨v, -, rfl⟩
    · exact commandFrame_raise _ _
    · exact commandFrame_one rfl rfl ⟨rfl, rfl, rfl, rfl, rfl⟩ hm rfl
  | dadvance =>
    refine answered (execDadvance_cases h) fun hm _ ho => ?_
    subst ho
    exact commandFrame_one rfl rfl ⟨rfl, rfl, rfl, rfl, rfl⟩ hm rfl
  | dinsert v =>
    refine answered (execDinsert_cases h) fun hm _ ho => ?_
    rcases ho with ⟨-, rfl⟩ | ⟨-, rfl⟩
    · exact commandFrame_raise _ _
    · exact commandFrame_one rfl rfl ⟨rfl, rfl, rfl, rfl, rfl⟩ hm rfl
  | classify iw =>
    refine answered (execClassify_cases h) fun hm _ ho => ?_
    subst ho
    exact commandFrame_one rfl rfl ⟨rfl, rfl, rfl, rfl, rfl⟩ hm rfl
  | status =>
    obtain ⟨hm, rfl⟩ := execStatus_cases h
    exact ⟨hm, commandFrame_one rfl rfl ⟨rfl, rfl, rfl, rfl, rfl⟩ hm rfl⟩
  | busRead => exact absurd rfl (hi .read)
  | busReadopcode => exact absurd rfl (hi .readOpcode)
  | busWrite => exact absurd rfl (hi .write)
  | busReady => exact absurd rfl (hi .ready)
  | busNone => exact absurd rfl (hi .none)

end Sys2Proof.Machine
end

