-- ==== Sys2Proof/Laws/Decode.lean ====
section
/-! SUPPORT. The fields of the encoder's formats, one lemma for each field. -/

namespace Sys2Proof

theorem toNat_formatN (opc : BitVec 8) : (formatN opc).toNat = opc.toNat * 2 ^ 56 := by
  simp only [formatN, BitVec.toNat_append, Nat.shiftLeft_eq]
  simp

theorem toNat_format32 (opc : BitVec 8) (v : BitVec 32) :
    (format32 opc v).toNat = opc.toNat * 2 ^ 56 + v.toNat := by
  have hv := v.isLt
  simp only [format32, BitVec.toNat_append]
  rw [← Nat.shiftLeft_add_eq_or_of_lt hv]
  simp only [BitVec.toNat_ofNat, Nat.zero_mod, Nat.shiftLeft_eq, Nat.or_zero]
  omega

theorem toNat_formatP (opc : BitVec 8) (pid : BitVec 16) :
    (formatP opc pid).toNat = opc.toNat * 2 ^ 56 + pid.toNat := by
  have hv := pid.isLt
  simp only [formatP, BitVec.toNat_append]
  rw [← Nat.shiftLeft_add_eq_or_of_lt hv]
  simp only [BitVec.toNat_ofNat, Nat.zero_mod, Nat.shiftLeft_eq, Nat.or_zero]
  omega

theorem toNat_formatD (opc : BitVec 8) (a b : BitVec 12) :
    (formatD opc a b).toNat = opc.toNat * 2 ^ 56 + b.toNat * 2 ^ 12 + a.toNat := by
  have ha := a.isLt
  have hb := b.isLt
  simp only [formatD, BitVec.toNat_append]
  rw [← Nat.shiftLeft_add_eq_or_of_lt ha, ← Nat.shiftLeft_add_eq_or_of_lt hb]
  simp only [BitVec.toNat_ofNat, Nat.zero_mod, Nat.shiftLeft_eq, Nat.or_zero]
  omega

/-- A field of a word, as a number. -/
theorem toNat_extract (w : CmdWord) (lo n : Nat) : (w.extractLsb' lo n).toNat = w.toNat / 2 ^ lo % 2 ^ n := by
  rw [BitVec.extractLsb'_toNat, Nat.shiftRight_eq_div_pow]

end Sys2Proof
end

