-- ==== Sys2Proof/Laws/Logs.lean ====
section
/-! SUPPORT. Reading a port log: what its views give on the events of one step. -/

namespace Sys2Proof.Machine

@[simp] theorem busTrace_append (l m : List Event) : busTrace (l ++ m) = busTrace l ++ busTrace m := by
  induction l with
  | nil => rfl
  | cons e l ih => cases e <;> simp [busTrace, ih]

@[simp] theorem performTrace_append (l m : List Event) :
    performTrace (l ++ m) = performTrace l ++ performTrace m := by
  induction l with
  | nil => rfl
  | cons e l ih => cases e <;> simp [performTrace, ih]

@[simp] theorem flushCount_append (l m : List Event) : flushCount (l ++ m) = flushCount l + flushCount m :=
  List.countP_append

@[simp] theorem flushCount_resp (w : CmdWord) (l : List Event) : flushCount (.resp w :: l) = flushCount l :=
  List.countP_cons_of_neg (by simp)

@[simp] theorem flushCount_cmd (w : CmdWord) (l : List Event) : flushCount (.cmd w :: l) = flushCount l :=
  List.countP_cons_of_neg (by simp)

@[simp] theorem flushCount_rst (l : List Event) : flushCount (.rst :: l) = flushCount l :=
  List.countP_cons_of_neg (by simp)

@[simp] theorem flushCount_bus (op : BusOp) (ans : BusAnswer) (l : List Event) :
    flushCount (.bus op ans :: l) = flushCount l := List.countP_cons_of_neg (by simp)

@[simp] theorem flushCount_flush (l : List Event) : flushCount (.flush :: l) = flushCount l + 1 :=
  List.countP_cons_of_pos (by simp)

/-- Answers are no bus operations. -/
theorem busTrace_answers {l : List Event} (h : ∀ e ∈ l, Event.IsAnswer e) : busTrace l = [] := by
  induction l with
  | nil => rfl
  | cons e l ih =>
    have hl := ih fun x hx => h x (by simp [hx])
    rcases h e (by simp) with ⟨w, rfl⟩ | ⟨j, rfl⟩ <;> exact hl

/-- Answers are no flush. -/
theorem flushCount_answers {l : List Event} (h : ∀ e ∈ l, Event.IsAnswer e) : flushCount l = 0 := by
  refine List.countP_eq_zero.2 fun e he => ?_
  rcases h e he with ⟨w, rfl⟩ | ⟨j, rfl⟩ <;> simp

/-- A command issues no bus operation and no flush. -/
theorem commandFrame_log {i : Instr} {s t : State} (h : CommandFrame i s t) :
    busTrace t.env.log = busTrace s.env.log ∧ flushCount t.env.log = flushCount s.env.log := by
  obtain ⟨⟨evs, he, ha⟩, -⟩ := h
  simp [he, busTrace_answers ha, flushCount_answers ha]

end Sys2Proof.Machine
end

