-- ==== Sys2Proof/Laws/Memory.lean ====
section
/-! SUPPORT. The laws of the sparse data by address: read after write, the canonical form is kept, and equal
contents are equal data. -/

namespace Sys2Proof.Machine

variable {α : Type} {d : α}

/-- A key below every listed key reads as the default. -/
theorem assocGet_below (l : List (Nat × α)) (k : Nat) (h : ∀ p ∈ l, k < p.1) : assocGet d l k = d := by
  induction l with
  | nil => rfl
  | cons p l ih =>
    obtain ⟨a, x⟩ := p
    have ha : k < a := h (a, x) (by simp)
    simp only [assocGet, if_neg (Nat.ne_of_lt ha)]
    exact ih fun q hq => h q (by simp [hq])

variable [DecidableEq α]

/-- Every entry of a list after a write is the written one or an old one. -/
theorem mem_assocPut {k : Nat} {v : α} {l : List (Nat × α)} {p : Nat × α} (h : p ∈ assocPut d k v l) :
    p = (k, v) ∧ v ≠ d ∨ p ∈ l := by
  induction l with
  | nil =>
    simp only [assocPut] at h
    split at h
    · simp at h
    · simp_all
  | cons q l ih =>
    obtain ⟨a, x⟩ := q
    simp only [assocPut] at h
    split at h
    · split at h
      · exact .inr h
      · simp_all
    · split at h
      · split at h
        · exact .inr (by simp [h])
        · simp_all
          tauto
      · rcases List.mem_cons.1 h with h | h
        · exact .inr (by simp [h])
        · rcases ih h with h | h
          · exact .inl h
          · exact .inr (by simp [h])

/-- A write keeps the canonical form. -/
theorem assocPut_wf (k : Nat) (v : α) {l : List (Nat × α)} (h : AssocWf d l) : AssocWf d (assocPut d k v l) := by
  constructor
  · induction l with
    | nil =>
      simp only [assocPut]
      split <;> simp
    | cons q l ih =>
      obtain ⟨a, x⟩ := q
      obtain ⟨hs, hd⟩ := h
      have hs' := List.pairwise_cons.1 hs
      have hl : AssocWf d l := ⟨hs'.2, fun p hp => hd p (by simp [hp])⟩
      simp only [assocPut]
      split
      · rename_i hka
        split
        · exact hs
        · refine List.pairwise_cons.2 ⟨fun p hp => ?_, hs⟩
          rcases List.mem_cons.1 hp with rfl | hp
          · exact hka
          · exact Nat.lt_trans hka (hs'.1 p hp)
      · split
        · rename_i hka
          subst hka
          split
          · exact hs'.2
          · exact List.pairwise_cons.2 ⟨hs'.1, hs'.2⟩
        · refine List.pairwise_cons.2 ⟨fun p hp => ?_, ih hl⟩
          rcases mem_assocPut hp with ⟨rfl, -⟩ | hp
          · show a < k
            omega
          · exact hs'.1 p hp
  · intro p hp
    rcases mem_assocPut hp with ⟨rfl, hv⟩ | hp
    · exact hv
    · exact h.2 p hp

/-- Read after write, at the written key and at every other. -/
theorem assocGet_put (k : Nat) (v : α) {l : List (Nat × α)} (h : AssocWf d l) (j : Nat) :
    assocGet d (assocPut d k v l) j = if j = k then v else assocGet d l j := by
  induction l with
  | nil =>
    simp only [assocPut, assocGet]
    split <;> simp_all [assocGet]
  | cons q l ih =>
    obtain ⟨a, x⟩ := q
    have hs' := List.pairwise_cons.1 h.1
    have hl : AssocWf d l := ⟨hs'.2, fun p hp => h.2 p (by simp [hp])⟩
    simp only [assocPut]
    split
    · rename_i hka
      have hbelow : assocGet d l k = d := assocGet_below l k fun p hp => Nat.lt_trans hka (hs'.1 p hp)
      split
      · by_cases hjk : j = k
        · subst hjk
          simp_all [assocGet, Nat.ne_of_lt hka]
        · simp [hjk]
      · simp [assocGet]
    · split
      · rename_i hka
        subst hka
        split
        · rename_i hv
          by_cases hjk : j = k
          · subst hjk
            rw [if_pos rfl, hv]
            exact assocGet_below l j hs'.1
          · simp [assocGet, hjk]
        · by_cases hjk : j = k <;> simp [assocGet, hjk]
      · rename_i hka hne
        simp only [assocGet, ih hl]
        by_cases hja : j = a
        · subst hja
          simp [Ne.symm hne]
        · simp [hja]

/-- A byte reads back after it is written, and no other byte changes. -/
theorem readByte_write (a : Nat) (v : BitVec 8) {m : List Host.Cell} (h : Memory.wf m) (b : Nat) :
    readByte (writeByte m a v) b = if b = a then v else readByte m b :=
  assocGet_put a v h b

/-- A write keeps the memory's canonical form. -/
theorem writeByte_wf (a : Nat) (v : BitVec 8) {m : List Host.Cell} (h : Memory.wf m) :
    Memory.wf (writeByte m a v) := assocPut_wf a v h

/-- The empty memory is in canonical form. -/
theorem memory_wf_nil : Memory.wf [] := ⟨List.Pairwise.nil, fun _ h => nomatch h⟩

/-- Defining a program of a legal PID keeps the store's form. -/
theorem defineProgram_wf {store : List (Nat × List MopWord)} (h : Store.wf store) {pid : Pid}
    {ws : List MopWord} (hp : pid ≠ 0) (hw : ws.length ≤ 65535) : Store.wf (defineProgram store pid ws) := by
  refine ⟨assocPut_wf _ _ h.1, fun p hp' => ?_⟩
  rcases mem_assocPut hp' with ⟨rfl, -⟩ | hp'
  · have h0 : pid.toNat ≠ 0 := fun h0 => hp (BitVec.eq_of_toNat_eq (by simpa using h0))
    have := pid.isLt
    exact ⟨by show 1 ≤ pid.toNat; omega, by show pid.toNat ≤ 65535; omega, hw⟩
  · exact h.2 p hp'

/-- A program of a store in form has at most 65535 words. -/
theorem assocGet_length_le {store : List (Nat × List MopWord)} (h : Store.wf store) (k : Nat) :
    (assocGet [] store k).length ≤ 65535 := by
  obtain ⟨-, h⟩ := h
  induction store with
  | nil => simp [assocGet]
  | cons p l ih =>
    obtain ⟨a, x⟩ := p
    simp only [assocGet]
    split
    · exact (h (a, x) (by simp)).2.2
    · exact ih fun q hq => h q (by simp [hq])

end Sys2Proof.Machine
end

