-- ==== Sys2Proof/Laws/Ops.lean ====
section
/-! SUPPORT. The laws of the shared operations: response words, fault entry, the handler's memory, and the steps of the
stepper as equations. -/

namespace Sys2Proof.Machine

/-! ## Response words (R87) -/

/-- An `ERR` = 0 response is its payload, zero-extended. -/
theorem okWord_setWidth {w : Nat} (h : w ≤ 63) (v : BitVec w) : okWord (v.setWidth 63) = v.setWidth 64 := by
  apply BitVec.eq_of_toNat_eq
  have hv := v.isLt
  have hw : 2 ^ w ≤ 2 ^ 63 := Nat.pow_le_pow_right (by decide) h
  simp only [okWord, BitVec.toNat_append, BitVec.toNat_setWidth, BitVec.toNat_ofNat, Nat.zero_mod, Nat.zero_shiftLeft,
    Nat.zero_or]
  rw [Nat.mod_eq_of_lt (by omega), Nat.mod_eq_of_lt (by omega)]

/-- No fault code is 0, and each is at most 8 (R211). -/
theorem code_range (c : FaultCode) : c.code ≠ 0 ∧ c.code.toNat ≤ 8 := by cases c <;> decide

/-! ## The handler's memory -/

/-- A read or a Ready operation leaves the memory alone. -/
theorem memAfter_of_not_write {e : Env} {op : BusOp} (h : op.kind ≠ .write) : memAfter e op = e.mem := by
  unfold memAfter
  split <;> first | rfl | exact absurd ‹_› h

/-- A Write to a named handler writes one byte. -/
theorem memAfter_write {e : Env} {op : BusOp} (hh : e.handler = .refhnd ∨ e.handler = .zerohnd)
    (hk : op.kind = .write) : memAfter e op = writeByte e.mem op.addr (BitVec.ofNat 8 op.wdata) := by
  rcases hh with hh | hh <;> simp only [memAfter, hh, hk]

/-- A handler that is none of the named ones has no memory to write. -/
theorem memAfter_unnamed {e : Env} {op : BusOp} (h1 : e.handler ≠ .refhnd) (h2 : e.handler ≠ .zerohnd) :
    memAfter e op = e.mem := by
  unfold memAfter
  split
  · exact absurd ‹_› h1
  · exact absurd ‹_› h2
  · rfl

/-- Every operation keeps the memory's canonical form. -/
theorem memAfter_wf {e : Env} (h : Memory.wf e.mem) (op : BusOp) : Memory.wf (memAfter e op) := by
  unfold memAfter
  split
  · exact writeByte_wf _ _ h
  · exact writeByte_wf _ _ h
  · exact h

/-- Every byte but the one an operation writes reads as before. -/
theorem readByte_memAfter {e : Env} (h : Memory.wf e.mem) (op : BusOp) {a : Nat}
    (ha : a ≠ op.addr ∨ op.kind ≠ .write) : readByte (memAfter e op) a = readByte e.mem a := by
  by_cases hk : op.kind = .write
  · have ha : a ≠ op.addr := by tauto
    unfold memAfter
    split
    · rw [readByte_write _ _ h, if_neg ha]
    · rw [readByte_write _ _ h, if_neg ha]
    · rfl
  · rw [memAfter_of_not_write hk]

/-- The memory after reset is in form. -/
theorem reset_memory_wf : Memory.wf State.reset.env.mem := memory_wf_nil

/-- `State.reset` is the block after a reset, with nothing outside it. -/
theorem reset_is_resetBlock :
    State.reset = { State.resetBlock { State.reset with draws := 0 } with env := Env.initial } := rfl

/-! ## The steps of the stepper -/

/-- An access that is due is what its bus kind does. -/
theorem exec_access {s : State} {kind : AccessKind} {a wd : Nat} {k : Arch → Nat → Arch × Fin (s.seq.lastRp + 1)}
    (hm : s.mode = .running) (hd : s.due = .access kind a wd k) :
    exec (instrOfKind (busKindOf kind)) s = .next (s.busStep kind a wd k) := by
  cases kind <;>
    simp only [busKindOf, instrOfKind, exec, execBusRead, execBusReadopcode, execBusWrite, State.accessStep, hm, hd,
      if_true]

/-- The state after a completed spin step (R118). -/
def spinDone (s : State) : State :=
  { s.issue (spinOp s) with
    inSpin := true, noneRun := 0, budget := s.budget - (busAnswer s.env (spinOp s)).cost.toNat }

/-- The spin step faults on cost 0 and completes otherwise. -/
theorem spinStep_eq (s : State) :
    s.spinStep =
      if (busAnswer s.env (spinOp s)).cost = 0 then (s.issue (spinOp s)).raise .costInvalid else spinDone s := rfl

/-- The state after a completed internal step (R116). -/
def intDone {n : Nat} (k : Arch → Arch × Fin (n + 1)) (s : State) : State :=
  { s with arch := (k s.arch).1, rp := (k s.arch).2.val, noneRun := s.noneRun + 1 }

/-- The internal step faults at the limit and completes otherwise. -/
theorem intStep_eq {n : Nat} (k : Arch → Arch × Fin (n + 1)) (s : State) :
    s.intStep k = if s.noneRun = s.params.noneLimit then s.raise .noneLimit else intDone k s := rfl

end Sys2Proof.Machine
end

