-- ==== Sys2Proof/Laws/PerInstr.lean ====
section
/-! SUPPORT. The family `TableRow`, one lemma for each instruction: its word matches its row of
spec/opcode_table.json, and only the row's operand bits can differ. -/

namespace Sys2Proof.Laws.TableRow

/-- A word of an interface, masked, is a value. -/
def maskedIs (mask value : Nat) : PortWord → Bool
  | .cmd w => w &&& BitVec.ofNat 64 mask == BitVec.ofNat 64 value
  | .kind c => c &&& BitVec.ofNat 3 mask == BitVec.ofNat 3 value
  | .mop m => m &&& BitVec.ofNat 16 mask == BitVec.ofNat 16 value

/-- The mask and the match value of an instruction's row of spec/opcode_table.json. -/
def row : Instr → Nat × Nat
  | .run _ => (0xFFFFFFFF00000000, 0x0100000000000000)
  | .sched _ => (0xFFFFFFFFFFFF0000, 0x1000000000000000)
  | .nextprog => (0xFFFFFFFFFFFFFFFF, 0x1100000000000000)
  | .fetchop => (0xFFFFFFFFFFFFFFFF, 0x1200000000000000)
  | .dispatch _ _ => (0xFFFFFFFFFF000000, 0x2000000000000000)
  | .dvalue => (0xFFFFFFFFFFFFFFFF, 0x3000000000000000)
  | .dadvance => (0xFFFFFFFFFFFFFFFF, 0x3100000000000000)
  | .dinsert _ => (0xFFFFFFFF00000000, 0x3200000000000000)
  | .classify _ => (0xFFFFFFFF00000000, 0x4000000000000000)
  | .status => (0xFFFFFFFFFFFFFFFF, 0x5000000000000000)
  | .busRead => (0x7, 0x1)
  | .busReadopcode => (0x7, 0x2)
  | .busWrite => (0x7, 0x3)
  | .busReady => (0x7, 0x4)
  | .busNone => (0x7, 0x0)
  | .mopNext => (0xFFFF, 0xFFFF)

/-- The instruction's word matches its row. -/
def Statement (i : Instr) : Prop := maskedIs (row i).1 (row i).2 (encode i) = true

/-- An operand below a mask of zeros is masked away. -/
theorem append_mask {a b : Nat} (x m : BitVec a) (y : BitVec b) : (x ++ y) &&& (m ++ 0#b) = (x &&& m) ++ 0#b := by
  rw [BitVec.and_append, BitVec.and_zero]

/-- The formats with a 32-bit operand. -/
theorem format32_masked (opc : BitVec 8) (v : BitVec 32) :
    format32 opc v &&& BitVec.ofNat 64 0xFFFFFFFF00000000 = format32 opc 0 := by
  have hm : BitVec.ofNat 64 0xFFFFFFFF00000000 = 0xFFFFFFFF#32 ++ 0#32 := by decide
  have ho : (opc ++ 0#24 : BitVec 32) &&& 0xFFFFFFFF#32 = opc ++ 0#24 := BitVec.and_allOnes
  rw [hm]
  exact (append_mask (opc ++ 0#24 : BitVec 32) 0xFFFFFFFF#32 v).trans (congrArg (· ++ 0#32) ho)

/-- Format P. -/
theorem formatP_masked (opc : BitVec 8) (pid : BitVec 16) :
    formatP opc pid &&& BitVec.ofNat 64 0xFFFFFFFFFFFF0000 = formatP opc 0 := by
  have hm : BitVec.ofNat 64 0xFFFFFFFFFFFF0000 = 0xFFFFFFFFFFFF#48 ++ 0#16 := by decide
  have ho : (opc ++ 0#40 : BitVec 48) &&& 0xFFFFFFFFFFFF#48 = opc ++ 0#40 := BitVec.and_allOnes
  rw [hm]
  exact (append_mask (opc ++ 0#40 : BitVec 48) 0xFFFFFFFFFFFF#48 pid).trans (congrArg (· ++ 0#16) ho)

/-- Format D. -/
theorem formatD_masked (opc : BitVec 8) (a b : BitVec 12) :
    formatD opc a b &&& BitVec.ofNat 64 0xFFFFFFFFFF000000 = formatD opc 0 0 := by
  have hm : BitVec.ofNat 64 0xFFFFFFFFFF000000 = (0xFFFFFFFFFF#40 ++ 0#12) ++ 0#12 := by decide
  have ho : (opc ++ 0#32 : BitVec 40) &&& 0xFFFFFFFFFF#40 = opc ++ 0#32 := BitVec.and_allOnes
  rw [hm]
  refine (append_mask ((opc ++ 0#32 : BitVec 40) ++ b) (0xFFFFFFFFFF#40 ++ 0#12) a).trans (congrArg (· ++ 0#12) ?_)
  exact (append_mask (opc ++ 0#32 : BitVec 40) 0xFFFFFFFFFF#40 b).trans (congrArg (· ++ 0#12) ho)

theorem run (n : BitVec 32) : Statement (.run n) :=
  beq_iff_eq.2 ((format32_masked 0x01 n).trans (by decide : format32 0x01 0 = BitVec.ofNat 64 0x0100000000000000))
theorem sched (pid : BitVec 16) : Statement (.sched pid) :=
  beq_iff_eq.2 ((formatP_masked 0x10 pid).trans (by decide : formatP 0x10 0 = BitVec.ofNat 64 0x1000000000000000))
theorem nextprog : Statement .nextprog := rfl
theorem fetchop : Statement .fetchop := rfl
theorem dispatch (a b : BitVec 12) : Statement (.dispatch a b) :=
  beq_iff_eq.2 ((formatD_masked 0x20 a b).trans (by decide : formatD 0x20 0 0 = BitVec.ofNat 64 0x2000000000000000))
theorem dvalue : Statement .dvalue := rfl
theorem dadvance : Statement .dadvance := rfl
theorem dinsert (v : BitVec 32) : Statement (.dinsert v) :=
  beq_iff_eq.2 ((format32_masked 0x32 v).trans (by decide : format32 0x32 0 = BitVec.ofNat 64 0x3200000000000000))
theorem classify (iw : BitVec 32) : Statement (.classify iw) :=
  beq_iff_eq.2 ((format32_masked 0x40 iw).trans (by decide : format32 0x40 0 = BitVec.ofNat 64 0x4000000000000000))
theorem status : Statement .status := rfl
theorem busRead : Statement .busRead := rfl
theorem busReadopcode : Statement .busReadopcode := rfl
theorem busWrite : Statement .busWrite := rfl
theorem busReady : Statement .busReady := rfl
theorem busNone : Statement .busNone := rfl
theorem mopNext : Statement .mopNext := rfl

end Sys2Proof.Laws.TableRow
end

