-- ==== Sys2Proof/Machine/Asm.lean ====
section
/-! DEFINITION. The textual syntax of spec/30_encoding.md R89, for the ten commands; a bus kind and the sentinel are
written by their names of the opcode table. -/

namespace Sys2Proof.Machine

/-- The line of an instruction (R89); numbers in decimal. -/
def asmText : Instr → String
  | .run n => "RUN " ++ toString (runGrant n)
  | .sched pid => "SCHED " ++ toString pid.toNat
  | .nextprog => "NEXTPROG"
  | .fetchop => "FETCHOP"
  | .dispatch first last => "DISPATCH " ++ toString first.toNat ++ ", " ++ toString last.toNat
  | .dvalue => "DVALUE"
  | .dadvance => "DADVANCE"
  | .dinsert v => "DINSERT " ++ toString v.toNat
  | .classify iw => "CLASSIFY " ++ toString iw.toNat
  | .status => "STATUS"
  | .busRead => "BUS_READ"
  | .busReadopcode => "BUS_READOPCODE"
  | .busWrite => "BUS_WRITE"
  | .busReady => "BUS_READY"
  | .busNone => "BUS_NONE"
  | .mopNext => "MOP_NEXT"

end Sys2Proof.Machine
end

