-- ==== Sys2Proof/Tests/Slice0.lean ====
section
/-! SUPPORT. The model's own tests: words written out from the formats of spec/30_encoding.md, the smoke test of
WellFormed, one step of each instruction against the vectors of spec/95_test_vectors.md, and for each statement with
hypotheses a state that meets them. -/

namespace Sys2Proof.Tests

open Sys2Proof Sys2Proof.Machine

/-! ## WellFormed: each check refuses an ill-formed term -/

theorem test_wf_sched_zero : (Instr.sched 0).wf 8 = false := by decide
theorem test_wf_dinsert_wide : (Instr.dinsert 0x100).wf 8 = false := by decide
theorem test_wf_dinsert_fits : (Instr.dinsert 0xFF).wf 8 = true ∧ (Instr.dinsert 0xFFFFFFFF).wf 32 = true := by decide

/-! ## Decoding: words from R81 to R84, R92, R95 and the vectors of 95_test_vectors.md 3.1 -/

/-- `OPC` 0x01, bits [55:32] zero, `N` = 17. -/
theorem test_decode_run : decode 8 0x0100000000000011 = .ok (.run 17) := by decide
theorem test_decode_sched : decode 8 0x100000000000FFFF = .ok (.sched 65535) := by decide
theorem test_decode_nextprog : decode 8 0x1100000000000000 = .ok .nextprog := by decide
theorem test_decode_fetchop : decode 8 0x1200000000000000 = .ok .fetchop := by decide
/-- `END` = 5 in [23:12], `START` = 2 in [11:0]. -/
theorem test_decode_dispatch : decode 8 0x2000000000005002 = .ok (.dispatch 2 5) := by decide
theorem test_decode_dvalue : decode 8 0x3000000000000000 = .ok .dvalue := by decide
theorem test_decode_dadvance : decode 8 0x3100000000000000 = .ok .dadvance := by decide
theorem test_decode_dinsert : decode 8 0x32000000000000FF = .ok (.dinsert 0xFF) := by decide
theorem test_decode_classify : decode 8 0x4000000012345678 = .ok (.classify 0x12345678) := by decide
theorem test_decode_status : decode 8 0x5000000000000000 = .ok .status := by decide
theorem test_decode_kinds : decodeKind 0b000 = .ok .busNone ∧ decodeKind 0b001 = .ok .busRead ∧
    decodeKind 0b010 = .ok .busReadopcode ∧ decodeKind 0b011 = .ok .busWrite ∧ decodeKind 0b100 = .ok .busReady := by
  decide
theorem test_decode_kinds_reserved : decodeKind 0b101 = .error .kindReserved ∧
    decodeKind 0b110 = .error .kindReserved ∧ decodeKind 0b111 = .error .kindReserved := by decide
theorem test_decode_mop : decodeMop 0xFFFF = .ok .mopNext ∧ decodeMop 0x0001 = .error .mopOpaque := by decide

/-- The opcodes outside the map that 95_test_vectors.md 3.1 lists. -/
theorem test_decode_outside_the_map :
    [0x0000000000000000, 0x0200000000000000, 0x1300000000000000, 0x2100000000000000, 0x3300000000000000,
      0x4100000000000000, 0x5100000000000000, 0x8100000000000000, 0xFF00000000000000].map (decode 8) =
      List.replicate 9 (.error .opcode) := by decide
/-- A reserved bit of each format. -/
theorem test_decode_reserved_bits :
    [0x0100000100000001, 0x1000000000010001, 0x1100000000000001, 0x2000000001000000, 0x30000000000000FF,
      0x40000001FFFFFFFF, 0x5000000000000001].map (decode 8) = List.replicate 7 (.error .reserved) := by decide
theorem test_decode_dinsert_width : decode 8 0x3200000000000100 = .error .dinsertWide ∧
    decode 32 0x32000000FFFFFFFF = .ok (.dinsert 0xFFFFFFFF) := by decide
theorem test_decode_sched_zero : decode 8 0x1000000000000000 = .error .schedZero := by decide
/-- The words the table numbers, through the host's entry. -/
theorem test_decode_table_words : decodeTableWord 64 0x2000000000000000 = some (.dispatch 0 0) ∧
    decodeTableWord 8 0x4 = some .busReady ∧ decodeTableWord 16 0xFFFF = some .mopNext ∧
    decodeTableWord 64 0x1000000000000000 = none ∧ decodeTableWord 8 0x5 = none := by decide

/-- The lines of R89. -/
theorem test_asm : asmText (.dispatch 2 5) = "DISPATCH 2, 5" ∧ asmText (.run 0xFFFFFFFF) = "RUN -1" := by decide

/-! ## Small states -/

/-- Program P1 of 95_test_vectors.md 4.1. -/
def memP1 : List Host.Cell :=
  [(0x0000, 0x10), (0x0001, 0x03), (0x0002, 0x60), (0x0004, 0x50), (0x0005, 0xFC), (0x0006, 0x30), (0x0007, 0x40),
   (0x0040, 0xEE)]

/-- The start state of 95_test_vectors.md 3.2: REFSEQ, REFHND, P1 and the program store PS, `LAST_ADDR_RESET` drawn
as 0x1234. -/
def base : State :=
  { mode := .idle, rp := 0, budget := 0, inSpin := false, lastAddr := 0x1234, noneRun := 0, arch := [0, 0, 0, 0]
    slots := #v[0, 0, 0, 0], ridx := 0, widx := 0, stepCtr := 0, dslots := [⟨false, 0⟩, ⟨false, 0⟩], faultCode := 0
    params := refParams, env := { Env.initial with store := storePS, handler := .refhnd, mem := memP1 }, draws := 2 }

/-- A RUN in progress at a resume point, with a budget. -/
def runAt (rp : Nat) (budget : Int) : State := { base with mode := .running, rp := rp, budget := budget }

/-- The ready line of REFHND asserted at every operation. -/
def held (s : State) : State := { s with env := { s.env with rdyRest := true } }

/-- The next inputs. -/
def given (l : List Input) (s : State) : State := s.withPending l

/-- A fault code latched. -/
def faulted (c : BitVec 8) (s : State) : State := { s with faultCode := c }

/-- An outcome is a next state with a property. -/
def next (o : Host.Outcome State Fault Refusal) (p : State → Bool) : Bool :=
  match o with
  | .next t => p t
  | .fault _ => false
  | .refused _ => false

/-- The newest event is a response word. -/
def answers (w : CmdWord) (t : State) : Bool := t.env.log.head? == some (.resp w)

/-! ## One step of each instruction -/

/-- 3.2: the largest grant is accepted whole, and a negative one is a no-op. -/
theorem test_run_grant : next (exec (.run 0x7FFFFFFF) base) (fun t => t.budget == 2147483647 && t.mode == .running) := by
  decide
theorem test_run_negative : next (exec (.run 0x80000000) base)
    (fun t => t.budget == 0 && t.mode == .idle && answers 0 t) := by decide
/-- 3.5, last rows: the write index wraps. -/
theorem test_sched_wraps : next (exec (.sched 5) { base with slots := #v[0, 2, 3, 0], ridx := 1, widx := 3 })
    (fun t => t.slots == #v[0, 2, 3, 5] && t.widx == 0 && t.ridx == 1) := by decide
/-- 3.5: a fifth program is not written over. -/
theorem test_sched_overflow : next (exec (.sched 5) { base with slots := #v[1, 2, 3, 4] })
    (fun t => t.slots == #v[1, 2, 3, 4] && t.faultCode == 4 && answers 0x8000000000000004 t) := by decide
/-- L1-8: the first slot is cleared, the second program is untouched. -/
theorem test_nextprog : next (exec .nextprog { base with slots := #v[1, 2, 0, 0], widx := 2, stepCtr := 2 })
    (fun t => t.slots == #v[0, 2, 0, 0] && t.ridx == 1 && t.widx == 2 && t.stepCtr == 0) := by decide
theorem test_nextprog_empty : next (exec .nextprog base) (fun t => answers 0x8000000000000005 t && t.ridx == 0) := by
  decide
/-- 3.5: the second word of `prog(1)`; past the end, `SCHED_UNTERMINATED` and `STEP` stays. -/
theorem test_fetchop : next (exec .fetchop { base with slots := #v[1, 0, 0, 0], widx := 1, stepCtr := 1 })
    (fun t => answers 0x0002 t && t.stepCtr == 2) := by decide
theorem test_fetchop_past_the_end : next (exec .fetchop { base with slots := #v[1, 0, 0, 0], widx := 1, stepCtr := 3 })
    (fun t => answers 0x8000000000000006 t && t.stepCtr == 3) := by decide
/-- L1-4 and 3.6: ascending, before the response, each index converted. -/
theorem test_dispatch : next (exec (.dispatch 3 6)
    { base with params := { refParams with dispatchN := 6, convert := some [0, 1, 2, 3, 0, 1], performM := 4 } })
    (fun t => t.env.log == [.resp 0, .perform 1, .perform 0, .perform 3]) := by decide
theorem test_dispatch_range : next (exec (.dispatch 0 2049) base)
    (fun t => t.env.log == [.resp 0x8000000000000007]) := by decide
/-- L1-7: the oldest value; an empty slot faults. -/
theorem test_dvalue : next (exec .dvalue { base with dslots := [⟨true, 0x41⟩, ⟨true, 0x42⟩] }) (answers 0x41) := by
  decide
theorem test_dvalue_empty : next (exec .dvalue { base with dslots := [⟨false, 0x41⟩, ⟨true, 0x42⟩] })
    (answers 0x8000000000000008) := by decide
/-- L1-7: `B` is exposed, the newest slot is empty. -/
theorem test_dadvance : next (exec .dadvance { base with dslots := [⟨true, 0x41⟩, ⟨true, 0x42⟩] })
    (fun t => t.dslots[0]? == some ⟨true, 0x42⟩ && t.dslots.length == 2) := by decide
theorem test_dadvance_newest : next (exec .dadvance { base with dslots := [⟨true, 0x41⟩, ⟨true, 0x42⟩] })
    (fun t => t.dslots[1]?.map DSlot.valid == some false) := by decide
/-- L1-7: the newest slot, not the oldest. -/
theorem test_dinsert : next (exec (.dinsert 0x42) { base with dslots := [⟨true, 0x41⟩, ⟨false, 0⟩] })
    (fun t => t.dslots == [⟨true, 0x41⟩, ⟨true, 0x42⟩]) := by decide
theorem test_dinsert_depth_one : next (exec (.dinsert 5)
    { base with dslots := [⟨false, 0⟩], params := { refParams with deferD := 1 } }) (fun t => t.dslots == [⟨true, 5⟩]) := by decide
/-- L1-6 and 3.7. -/
theorem test_classify_multiply : next (exec (.classify 0x00100090) base) (answers 0x11) ∧
    next (exec (.classify 0x00100000) base) (answers 0xFF) := by decide
theorem test_classify_dp : next (exec (.classify 0x12345678) base) (answers 0x01) ∧
    next (exec (.classify 0x00000000) base) (answers 0x00) := by decide
/-- R202 and 3.9. -/
theorem test_status : next (exec .status { base with slots := #v[0, 2, 0, 0], ridx := 1, widx := 2 })
    (answers 0x0000000000290000) := by decide
theorem test_status_faulted : next (exec .status (faulted 8 { base with ridx := 2, widx := 2 }))
    (answers 0x00000000000A0802) := by decide
/-- P1, operation 2 (3.2): `LDI #3`. -/
theorem test_bus_read : next (exec .busRead { runAt 1 1 with arch := [1, 0, 0x10, 0] })
    (fun t => t.arch == [2, 3, 0x10, 3] && t.rp == 0 && t.lastAddr == 1 && t.budget == 0) := by decide
/-- REFHND's cost of 3 at 0x00F0 leaves a debt (3.3, row 4). -/
theorem test_bus_read_costly : next (exec .busRead { runAt 2 1 with arch := [2, 0, 0x20, 0xF0] })
    (fun t => t.budget == -2 && t.lastAddr == 0x00F0 && t.mode == .running) := by decide
/-- P1, operation 1 (3.2). -/
theorem test_bus_readopcode : next (exec .busReadopcode (runAt 0 1))
    (fun t => t.arch == [1, 0, 0x10, 0] && t.rp == 1 && t.lastAddr == 0 && t.inSpin == false) := by decide
/-- P1, operation 17: `STZ 0x40` writes `A`, also while the ready line is asserted (R120). -/
theorem test_bus_write : next (exec .busWrite (held { runAt 3 1 with arch := [8, 7, 0x30, 0x40] }))
    (fun t => t.byteAt 0x40 == 7 && t.byteAt 0x41 == 0 && t.rp == 0 && t.lastAddr == 0x40) := by decide
/-- L1-3: a Ready at `LAST_ADDR`, and the position stays. -/
theorem test_bus_ready : next (exec .busReady (held (runAt 0 1)))
    (fun t => t.env.log == [.bus ⟨.ready, 0x1234, 0⟩ ⟨1, 0⟩] && t.inSpin && t.rp == 0 && t.budget == 0) := by decide
/-- P1 after operation 6: the branch of -4 from 0x0006 (3.2). -/
theorem test_bus_none : next (exec .busNone { runAt 5 1 with arch := [6, 2, 0x50, 0xFC] })
    (fun t => t.arch == [2, 2, 0x50, 0xFC] && t.rp == 0 && t.noneRun == 1 && t.budget == 1) := by decide
/-- 3.4, LOOPSEQ: the second internal step in a row faults. -/
theorem test_bus_none_limit : next (exec .busNone
    { runAt 0 1 with arch := [], noneRun := 1, params := { refParams with seq := .loopseq, noneLimit := 1 } })
    (fun t => answers 0x8000000000000003 t && t.noneRun == 1 && t.budget == 1 && t.mode == .idle) := by decide
theorem test_mop_next : next (exec .mopNext { base with slots := #v[0, 0, 0, 5], ridx := 3, widx := 0 })
    (fun t => t.slots == #v[0, 0, 0, 0] && t.ridx == 0) := by decide
/-- 3.4: a cost of 0, after the handler has acted. -/
theorem test_cost_zero : next (exec .busReadopcode { runAt 0 1 with env := { base.env with handler := .zerohnd } })
    (fun t => answers 0x8000000000000002 t && t.rp == 0 && t.budget == 1 && t.lastAddr == 0x1234) := by decide
/-- 3.10: the gate comes before decoding, and STATUS is answered. -/
theorem test_gate : next (step (given [.cmd 0] (faulted 5 base))) (answers 0x8000000000000005) ∧
    next (step (given [.cmd 0x5000000000000000] (faulted 5 base))) (answers 0x0000000000000502) := by decide
/-- 3.10: reset pre-empts the step of a RUN. -/
theorem test_reset : next (step { runAt 3 5 with env := { base.env with rst := [true] } })
    (fun t => t.mode == .idle && t.rp == 0 && t.budget == 0 && t.lastAddr == 0x1234 && t.env.log == [.rst] &&
      t.byteAt 0x40 == 0xEE) := by decide

/-! ## The host's probe: each table row's word is the first instruction after reset -/

/-- The coming step runs an instruction. -/
def runs (s : State) (i : Instr) : Bool :=
  match s.work with
  | .run j _ => j == i
  | .done _ => false

theorem test_fetch_commands :
    [(0x0100000000000000, Instr.run 0), (0x1000000000000001, .sched 1), (0x1100000000000000, .nextprog),
      (0x1200000000000000, .fetchop), (0x2000000000000000, .dispatch 0 0), (0x3000000000000000, .dvalue),
      (0x3100000000000000, .dadvance), (0x3200000000000000, .dinsert 0), (0x4000000000000000, .classify 0),
      (0x5000000000000000, .status)].all (fun x => runs (State.reset.withFetchWord 64 x.1) x.2) = true := by decide
theorem test_fetch_kinds :
    [(0, Instr.busNone), (1, .busRead), (2, .busReadopcode), (3, .busWrite), (4, .busReady)].all
      (fun x => runs (State.reset.withFetchWord 8 x.1) x.2) = true := by decide
theorem test_fetch_mop : runs (State.reset.withFetchWord 16 0xFFFF) .mopNext = true := by decide
theorem test_fetch_steps : next (step (State.reset.withFetchWord 8 4)) (fun t => t.inSpin && t.budget == 0) ∧
    next (step (State.reset.withFetchWord 64 0x1000000000000007)) (fun t => t.slots == #v[7, 0, 0, 0]) := by decide

/-! ## Witnesses: a state that meets the hypotheses of each statement, at the boundaries of its clauses -/

/-- The parameters of the vectors meet the constraints. -/
theorem test_params_ok : ParamsOk refParams :=
  { lastAddr := by decide, dispatch := by decide, convert := rfl, depth := by decide, width := by decide
    field := by decide, zeroIsAnd := by decide, multiply := by decide, outside := by decide, codes := by decide }

/-- Every slot of a full ring. -/
def fullRing : State := { base with slots := #v[3, 4, 1, 2], ridx := 2, widx := 2 }

theorem witness_encode : (Instr.dinsert 0xFF).wf 8 = true ∧ (Instr.sched 0xFFFF).wf 8 = true ∧
    (Instr.dispatch 0xFFF 0xFFF).wf 8 = true ∧ (Instr.run 0x80000000).wf 8 = true ∧ Instr.busReady.wf 8 = true := by
  decide
theorem witness_accepted_word : decodeWord 8 (.cmd 0x32000000000000FF) = .ok (.dinsert 0xFF) ∧
    decodeWord 8 (.kind 0b100) = .ok .busReady ∧ decodeWord 8 (.mop 0xFFFF) = .ok .mopNext := by decide

/-- StepRunsTheDecodedInstruction, clause by clause. -/
theorem witness_step_runs :
    (let s := given [.cmd 0x1000000000000001] base
     NoReset s ∧ s.mode = .idle ∧ s.env.pending = [.cmd 0x1000000000000001] ∧
      decode s.params.deferVW 0x1000000000000001 = .ok (.sched 1)) ∧
    (let s := given [.mop MOP_NEXT] base
     NoReset s ∧ s.mode = .idle ∧ s.env.pending = [.mop MOP_NEXT]) ∧
    (let s := given [.mop 0xFFFE] base
     NoReset s ∧ s.mode = .idle ∧ s.env.pending = [.mop 0xFFFE] ∧ (0xFFFE : MopWord) ≠ MOP_NEXT) ∧
    (NoReset (runAt 0 1) ∧ (runAt 0 1).mode = .running ∧ 0 < (runAt 0 1).budget) := by
  unfold NoReset; decide

/-- ReadyLineHoldsOnlyReads, each kind of micro-step, with the line asserted and released. -/
theorem witness_ready_line : ∀ s, (∃ rp, rp ∈ [0, 1, 3, 5] ∧ (s = runAt rp 1 ∨ s = held (runAt rp 1))) →
    NoReset s ∧ s.mode = .running ∧ 0 < s.budget := by
  rintro s ⟨rp, -, rfl | rfl⟩ <;> exact ⟨nofun, rfl, Int.one_pos⟩
theorem witness_ready_line_steps :
    (∃ a wd k, (held (runAt 3 1)).microStep = .bus .write a wd k) ∧ (∃ k, (held (runAt 5 1)).microStep = .int k) ∧
    (∃ a wd k, (held (runAt 1 1)).microStep = .bus .read a wd k) ∧
    (∃ a wd k, (runAt 0 1).microStep = .bus .readOpcode a wd k) :=
  ⟨⟨_, _, _, rfl⟩, ⟨_, rfl⟩, ⟨_, _, _, rfl⟩, ⟨_, _, _, rfl⟩⟩

theorem witness_idle_holds : base.mode = .idle ∧ base.env.pending = [] ∧ NoReset base := ⟨rfl, rfl, nofun⟩

/-- NoTransitionOutsideItsPlace: a command in a RUN; a kind of an idle block; a kind that is not due. -/
theorem witness_no_transition : (runAt 0 1).mode = .running ∧ (∃ w, encode .status = .cmd w) ∧ base.mode = .idle ∧
    (runAt 3 1).dueKind ≠ .read := ⟨rfl, ⟨_, rfl⟩, rfl, by decide⟩

/-- The invariant holds of a block with a RUN in progress, a full ring and a debtless budget, and it steps. -/
theorem witness_invariant : State.Inv { fullRing with mode := .running, budget := 1, rp := 5 } ∧
    next (step { fullRing with mode := .running, budget := 1, rp := 5 }) (fun _ => true) := by
  refine ⟨⟨test_params_ok, by decide, by decide, by decide, by decide, by decide, nofun, fun h => absurd rfl h,
    by decide, ⟨4, by decide, by decide, by decide⟩, by decide, rfl, by decide, by decide, by decide, nofun⟩, by decide⟩

/-- RingStaysContiguous: a full ring, which the next command moves on from. -/
theorem witness_ring : fullRing.RingOk ∧
    next (step (given [.cmd 0x1100000000000000] fullRing)) (fun t => t.slots == #v[3, 4, 0, 2] && t.ridx == 3) :=
  ⟨⟨4, by decide, by decide, by decide⟩, by decide⟩

/-- The statements about every step: one that issues an operation. -/
theorem witness_step : next (step (runAt 0 1)) (fun t => t.env.log.length == 1) := by decide

/-- OneOperationAtATime, clause by clause: an opcode fetch, a read, a write, a Ready operation, an internal step. -/
theorem witness_operations :
    (∃ a wd k, (runAt 0 1).due = .access .readOpcode a wd k) ∧ (∃ a wd k, (runAt 1 1).due = .access .read a wd k) ∧
    (∃ a wd k, (runAt 3 1).due = .access .write a wd k) ∧ (held (runAt 0 1)).due = .spin ∧
    (∃ k, (runAt 5 1).due = .internal k) ∧
    next (step (runAt 0 1)) (fun t => busTrace t.env.log == [(⟨.readOpcode, 0, 0⟩, ⟨1, 0x10⟩)]) ∧
    next (step { runAt 1 1 with arch := [1, 0, 0x10, 0] })
      (fun t => busTrace t.env.log == [(⟨.read, 1, 0⟩, ⟨1, 3⟩)]) ∧
    next (step { runAt 3 1 with arch := [8, 7, 0x30, 0x40] })
      (fun t => (busTrace t.env.log).map Prod.fst == [⟨.write, 0x40, 7⟩]) ∧
    next (step (held (runAt 0 1))) (fun t => (busTrace t.env.log).map Prod.fst == [⟨.ready, 0x1234, 0⟩]) ∧
    next (step (runAt 5 1)) (fun t => (busTrace t.env.log).isEmpty) :=
  ⟨⟨_, _, _, rfl⟩, ⟨_, _, _, rfl⟩, ⟨_, _, _, rfl⟩, rfl, ⟨_, rfl⟩, by decide, by decide, by decide, by decide, by decide⟩

/-- OnlyAWriteChangesAByte: P1's last operation. -/
theorem witness_byte : Memory.wf (runAt 3 1).env.mem ∧
    next (step { runAt 3 1 with arch := [8, 7, 0x30, 0x40] })
      (fun t => t.byteAt 0x40 != (runAt 3 1).byteAt 0x40) := by decide

theorem witness_run_takes_no_input : (given [.mop 0xFFFF] (runAt 0 1)).mode = .running ∧
    next (step (given [.mop 0xFFFF] (runAt 0 1))) (fun t => t.env.pending == [.mop 0xFFFF]) := by decide

theorem witness_run_grants : base.mode = .idle ∧ base.faultCode = 0 ∧ 0 < (1 : BitVec 32).toInt ∧
    0 < (0x7FFFFFFF : BitVec 32).toInt := by decide
theorem witness_run_no_op : base.mode = .idle ∧ base.faultCode = 0 ∧ (0 : BitVec 32).toInt ≤ 0 ∧
    (0x80000000 : BitVec 32).toInt ≤ 0 := by decide

/-- FlushExactlyAtTheNormalEnd: a RUN with no budget left, with a debt, and one with a cycle left. -/
theorem witness_flush : NoReset (runAt 0 0) ∧ (runAt 0 0).mode = .running ∧ (runAt 0 0).budget ≤ 0 ∧
    (runAt 0 (-65534)).budget ≤ 0 ∧ ¬ (runAt 0 1).budget ≤ 0 ∧ next (step (runAt 0 0)) (fun t => t.mode == .idle) ∧
    next (step (runAt 0 1)) (fun t => t.mode == .running) := by unfold NoReset; decide

theorem witness_run_ends : (runAt 0 1).mode = .running ∧ (runAt 0 1).faultCode = 0 ∧
    (runAt 0 1).noneRun ≤ (runAt 0 1).params.noneLimit ∧ RstLow (runAt 0 1) := ⟨rfl, rfl, by decide, nofun⟩

theorem witness_costs : RstLow (runAt 0 1) ∧ next (runSteps 1 (runAt 0 1)) (fun t => t.budget == 0) :=
  ⟨nofun, by decide⟩

/-- RunKeepsItsBudgetBound: one cycle from no debt, one operation; and a debt at the bound. -/
theorem witness_budget_bound :
    (let s := given [.cmd 0x0100000000000001] base
     s.mode = .idle ∧ s.faultCode = 0 ∧ s.budget ≤ 0 ∧ -(2 ^ 16 - 2) ≤ s.budget ∧
      s.env.pending = [.cmd 0x0100000000000001] ∧ decode s.params.deferVW 0x0100000000000001 = .ok (.run 1) ∧
      0 < (1 : BitVec 32).toInt ∧
      next (runSteps 3 s) (fun t => t.mode == .idle && t.env.pending.isEmpty && t.budget == 0)) ∧
    (let s := { given [.cmd 0x0100000000000001] base with budget := -65534 }
     s.budget ≤ 0 ∧ -(2 ^ 16 - 2) ≤ s.budget ∧
      next (runSteps 2 s) (fun t => t.mode == .idle && t.env.pending.isEmpty && t.budget == -65533)) := by decide
theorem witness_budget_bound_rst : RstLow (given [.cmd 0x0100000000000001] base) := nofun

/-- ReadyLineHold, N = 1: an opcode fetch held by REFHND's line. -/
theorem witness_ready_hold :
    let s := given [.cmd 0x0100000000000001] (held base)
    s.mode = .idle ∧ s.faultCode = 0 ∧ s.budget = 0 ∧ s.env.rst = [] ∧ s.env.pending = [.cmd 0x0100000000000001] ∧
      decode s.params.deferVW 0x0100000000000001 = .ok (.run 1) ∧ (1 : BitVec 32).toInt = ((1 : Nat) : Int) ∧
      (∃ kind a wd k, s.microStep = .bus kind a wd k ∧ isReadType kind = true) ∧
      ∀ j, j < 1 → rdyLine (spinsFrom s.lastAddr j (s.takeCmd 0x0100000000000001 []).env) = true ∧
        (busAnswer (spinsFrom s.lastAddr j (s.takeCmd 0x0100000000000001 []).env) (spinOp s)).cost = 1 := by
  refine ⟨rfl, rfl, rfl, rfl, rfl, by decide, by decide, ⟨_, _, _, _, rfl, rfl⟩, fun j hj => ?_⟩
  obtain rfl : j = 0 := by omega
  decide

/-- SplitInvariance: RUN 1; RUN 1 against RUN 2 from a debt of 1. -/
theorem witness_split :
    let s := { base with budget := -1 }
    s.mode = .idle ∧ s.faultCode = 0 ∧ s.env.rst = [] ∧ (∀ x ∈ [1, 1], 0 ≤ (x : BitVec 32).toInt) ∧
      ([1, 1].map (BitVec.toInt (n := 32))).sum = (2 : BitVec 32).toInt ∧ HandlerByTrace (s.budget + 2) s.env ∧
      next (runSteps 5 (s.withPending ([1, 1].map fun x => .cmd (format32 0x01 x))))
        (fun t => t.mode == .idle && t.env.pending.isEmpty && t.faultCode == 0) ∧
      next (runSteps 3 (s.withPending [.cmd (format32 0x01 2)]))
        (fun t => t.mode == .idle && t.env.pending.isEmpty && t.faultCode == 0) :=
  ⟨rfl, rfl, rfl, by simp, by decide, .inl rfl, by decide, by decide⟩

/-- AccessStepCompletes: each kind, with the operation written out; the address of the write is P1's. -/
theorem witness_access : Memory.wf (runAt 0 1).env.mem ∧
    (∃ a wd k, (runAt 1 1).due = .access .read a wd k ∧
      (busAnswer (runAt 1 1).env { kind := .read, addr := a % 2 ^ 16, wdata := 0 }).cost ≠ 0) ∧
    (∃ a wd k, (runAt 0 1).due = .access .readOpcode a wd k ∧
      (busAnswer (runAt 0 1).env { kind := .readOpcode, addr := a % 2 ^ 16, wdata := 0 }).cost ≠ 0) ∧
    (∃ a wd k, (held (runAt 3 1)).due = .access .write a wd k ∧
      (busAnswer (held (runAt 3 1)).env { kind := .write, addr := a % 2 ^ 16, wdata := wd % 2 ^ 8 }).cost ≠ 0 ∧
      (held (runAt 3 1)).env.handler = .refhnd) ∧ base.params.addrW = 16 ∧ base.params.dataW = 8 :=
  ⟨by decide, ⟨_, _, _, rfl, by decide⟩, ⟨_, _, _, rfl, by decide⟩, ⟨_, _, _, rfl, by decide, rfl⟩, rfl, rfl⟩
theorem witness_spin : (held (runAt 0 1)).mode = .running ∧ (held (runAt 0 1)).due = .spin ∧
    (busAnswer (held (runAt 0 1)).env (spinOp (held (runAt 0 1)))).cost ≠ 0 := ⟨rfl, rfl, by decide⟩
theorem witness_internal : (runAt 5 1).mode = .running ∧ (∃ k, (runAt 5 1).due = .internal k) ∧
    (runAt 5 1).noneRun ≠ (runAt 5 1).params.noneLimit ∧
    ({ runAt 5 1 with noneRun := 5 } : State).noneRun ≠ (runAt 5 1).params.noneLimit :=
  ⟨rfl, ⟨_, rfl⟩, by decide, by decide⟩

/-- CostZeroFaults: ZEROHND at address 0, for an access and for a Ready operation. -/
def zeroAt (s : State) : State := { s with lastAddr := 0, env := { s.env with handler := .zerohnd } }
theorem witness_cost_zero :
    (∃ a wd k, (zeroAt (runAt 0 1)).due = .access .readOpcode a wd k ∧
      (busAnswer (zeroAt (runAt 0 1)).env (accessOp refParams .readOpcode a wd)).cost = 0) ∧
    (zeroAt (held (runAt 0 1))).due = .spin ∧
    (busAnswer (zeroAt (held (runAt 0 1))).env (spinOp (zeroAt (held (runAt 0 1))))).cost = 0 :=
  ⟨⟨_, _, _, rfl, by decide⟩, rfl, by decide⟩
theorem witness_internal_limit : (∃ k, ({ runAt 5 1 with noneRun := 6 } : State).due = .internal k) ∧
    ({ runAt 5 1 with noneRun := 6 } : State).noneRun = ({ runAt 5 1 with noneRun := 6 } : State).params.noneLimit :=
  ⟨⟨_, rfl⟩, rfl⟩
theorem witness_stepper_frame : next (exec (.run 1) base) (fun _ => true) ∧
    next (exec (instrOfKind .write) (runAt 3 1)) (fun _ => true) := by decide

theorem witness_sched : base.mode = .idle ∧ base.faultCode = 0 ∧ (0xFFFF : BitVec 16) ≠ 0 ∧
    base.slotAt base.widx = 0 := by decide
/-- A state with program 1 current, at its last word. -/
def atSentinel : State := { base with slots := #v[1, 0, 0, 0], widx := 1, stepCtr := 2 }
theorem witness_fetchop : atSentinel.mode = .idle ∧ atSentinel.faultCode = 0 ∧ Store.wf atSentinel.env.store ∧
    atSentinel.slotAt atSentinel.ridx ≠ 0 ∧
    (atSentinel.prog (atSentinel.slotAt atSentinel.ridx))[atSentinel.stepCtr.toNat]? = some 0xFFFF := by decide
theorem witness_next : fullRing.mode = .idle ∧ fullRing.faultCode = 0 ∧ fullRing.slotAt fullRing.ridx ≠ 0 := by decide
theorem witness_owner : NoReset (given [.program 0xFFFF [1]] base) ∧ base.mode = .idle ∧
    (given [.program 0xFFFF [1]] base).env.pending = [.program 0xFFFF [1]] ∧ Store.wf base.env.store := by
  unfold NoReset; decide
/-- OwnerChangesAreSeen: at its last word, the current program gets another word there, or ends before it; another
program's change is not its own. -/
theorem witness_owner_current : atSentinel.faultCode = 0 ∧ atSentinel.slotAt atSentinel.ridx = 1 ∧
    ([1, 2, 0x0A0A] : List MopWord)[atSentinel.stepCtr.toNat]? = some 0x0A0A ∧
    ([1, 2] : List MopWord).length ≤ atSentinel.stepCtr.toNat ∧
    (atSentinel.prog 1)[atSentinel.stepCtr.toNat]? = some 0xFFFF ∧
    next (runSteps 2 (given [.program 1 [1, 2, 0x0A0A], .cmd 0x1200000000000000] atSentinel)) (answers 0x0A0A) ∧
    next (runSteps 2 (given [.program 1 [1, 2], .cmd 0x1200000000000000] atSentinel)) (answers 0x8000000000000006) ∧
    next (runSteps 2 (given [.program 2 [1, 2], .cmd 0x1200000000000000] atSentinel)) (answers 0xFFFF) := by decide

/-- DispatchPerformsTheRange: an empty range at the end of the table and a range of one, without a conversion; and the
last entry of a conversion table. -/
theorem witness_dispatch : base.mode = .idle ∧ base.faultCode = 0 ∧
    (2048 : BitVec 12).toNat ≤ (2048 : BitVec 12).toNat ∧ (2048 : BitVec 12).toNat ≤ base.params.dispatchN ∧
    (2047 : BitVec 12).toNat ≤ (2048 : BitVec 12).toNat ∧ base.params.convert = none ∧
    next (exec (.dispatch 2047 2048) base) (fun t => performTrace t.env.log == [2047]) ∧
    (let p := { refParams with dispatchN := 6, convert := some [0, 1, 2, 3, 0, 1], performM := 4 }
     (6 : BitVec 12).toNat ≤ p.dispatchN ∧ p.convert = some [0, 1, 2, 3, 0, 1] ∧
      ([0, 1, 2, 3, 0, 1] : List Nat)[(5 : BitVec 12).toNat + 0]? = some 1) := by decide
/-- ClassifierTwoLevels: the first and the last bit of the field, REFDEC's third pattern, an index without a pattern,
an operation with a refinement, after others and first, and one without, a refinement that holds and one that does
not, a refined word and an unrefined one. -/
theorem witness_classifier :
    (refParams.decodeField.length = 8 ∧ refParams.decodeField[0]? = some 20 ∧ refParams.decodeField[7]? = some 27) ∧
    (∃ before e after, refParams.decodePatterns = before ++ e :: after ∧ before.length = 2 ∧
      (∀ f ∈ before, (0x01 : BitVec 8) &&& f.mask ≠ f.value) ∧ (0x01 : BitVec 8) &&& e.mask = e.value) ∧
    (∀ f ∈ refParams.decodePatterns, (0x40 : BitVec 8) &&& f.mask ≠ f.value) ∧
    (∃ before c cubes after, refParams.decodeRefine = before ++ (c, cubes) :: after ∧ before.length = 1 ∧
      ∀ r ∈ before, r.1 ≠ c) ∧
    (∃ c cubes after, refParams.decodeRefine = [] ++ (c, cubes) :: after) ∧
    (∀ r ∈ refParams.decodeRefine, r.1 ≠ Op.dp 0) ∧
    (refineHolds multiplyRefine 0x00100090 = true ∧ refineHolds multiplyRefine 0x001000F0 = false) ∧
    refinement refParams (coarse refParams (fieldIndex refParams.decodeField 0)) = none ∧
    refinement refParams (coarse refParams (fieldIndex refParams.decodeField 0x00100090)) = some multiplyRefine :=
  ⟨⟨rfl, rfl, rfl⟩, ⟨_, _, _, (List.take_append_drop 2 _).symm, rfl, by decide, by decide⟩, by decide,
    ⟨_, _, _, _, (List.take_append_drop 1 _).symm, rfl, by decide⟩, ⟨_, _, _, rfl⟩, by decide, by decide, by decide,
    by decide⟩
/-- ClassifyAnswersTheCode: a word that classifies as Undefined and one whose code is in the list. -/
theorem witness_classify : base.mode = .idle ∧ base.faultCode = 0 ∧ classify base.params 0x04000000 = .undefined ∧
    ParamsOk base.params ∧ (classify base.params 0x00100090, 0x11) ∈ base.params.classCode :=
  ⟨rfl, rfl, by decide, test_params_ok, by decide⟩
theorem witness_multiply :
    coarse refParams (fieldIndex refParams.decodeField 0x00100090) = .multiply false true ∧
    (0x00100090 : BitVec 32).extractLsb' 4 4 = 0b1001 ∧
    coarse refParams (fieldIndex refParams.decodeField 0x001000F0) = .multiply false true ∧
    (0x001000F0 : BitVec 32).extractLsb' 4 4 ≠ 0b1001 := by decide

theorem witness_dvalue : ({ base with dslots := [⟨true, 0xFF⟩, ⟨false, 0⟩] } : State).dslots[0]? =
    some { valid := true, value := 0xFF } ∧ base.mode = .idle ∧ base.faultCode = 0 := by decide
/-- The depths 2 and 1. -/
theorem witness_backlog : base.dslots.length = base.params.deferD ∧ 1 ≤ base.params.deferD ∧
    (0xFF : BitVec 32).toNat < 2 ^ base.params.deferVW ∧
    ([⟨true, 0⟩] : List DSlot).length = ({ refParams with deferD := 1 } : Params).deferD := by decide
/-- DeferredLatency, j = `DEFER_D` - 1. -/
theorem witness_latency :
    let s := given [.cmd (format32 0x32 0xFF), .cmd (formatN 0x31), .cmd (formatN 0x30)] base
    s.mode = .idle ∧ s.faultCode = 0 ∧ s.env.rst = [] ∧ s.dslots.length = s.params.deferD ∧
      (0xFF : BitVec 32).toNat < 2 ^ s.params.deferVW ∧ 1 < s.params.deferD ∧ 1 = s.params.deferD - 1 ∧
      s.env.pending = .cmd (format32 0x32 0xFF) :: (List.replicate 1 (.cmd (formatN 0x31)) ++
        .cmd (formatN 0x30) :: []) := by decide
theorem witness_packed : ([⟨true, 0x41⟩, ⟨true, 0xFF⟩] : List DSlot)[1]? = some ⟨true, 0xFF⟩ ∧
    (0xFF : BitVec 32).toNat < 2 ^ 8 ∧ packSlots 8 [⟨true, 0x41⟩, ⟨true, 0xFF⟩] = 0xFF41 := by decide
theorem witness_status : base.mode = .idle ∧ (faulted 8 base).mode = .idle ∧ (faulted 8 base).faultCode ≠ 0 := by
  decide

/-- CommandFaults, clause by clause, at the boundaries. -/
theorem witness_command_faults : base.mode = .idle ∧ base.faultCode = 0 ∧ fullRing.slotAt fullRing.widx ≠ 0 ∧
    base.slotAt base.ridx = 0 ∧
    (let s := { atSentinel with stepCtr := 3 }
     s.slotAt s.ridx ≠ 0 ∧ (s.prog (s.slotAt s.ridx)).length ≤ s.stepCtr.toNat) ∧
    ¬ ((1 : BitVec 12).toNat ≤ (0 : BitVec 12).toNat ∧ (0 : BitVec 12).toNat ≤ base.params.dispatchN) ∧
    ¬ ((0 : BitVec 12).toNat ≤ (2049 : BitVec 12).toNat ∧ (2049 : BitVec 12).toNat ≤ base.params.dispatchN) ∧
    base.dslots[0]? = some ⟨false, 0⟩ := by decide
theorem witness_illegal : NoReset (given [.cmd 0x1000000000000000] base) ∧ base.faultCode = 0 ∧
    (given [.cmd 0x1000000000000000] base).env.pending = [.cmd 0x1000000000000000] ∧
    decode base.params.deferVW 0x1000000000000000 = .error .schedZero := by unfold NoReset; decide
theorem witness_gate : NoReset (given [.cmd 0x5000000000000001] (faulted 5 base)) ∧ (faulted 5 base).faultCode ≠ 0 ∧
    decode base.params.deferVW 0x5000000000000001 ≠ .ok .status ∧
    decode base.params.deferVW 0x5000000000000000 = .ok .status := by unfold NoReset; decide

/-- FaultsArePrecise and EveryFaultHasItsCause: a step that latches each of the eight codes. -/
theorem witness_faults :
    [(given [.cmd 0] base, 1), (zeroAt (runAt 0 1), 2), ({ runAt 5 1 with noneRun := 6 }, 3),
      (given [.cmd 0x1000000000000001] fullRing, 4), (given [.mop 0xFFFF] base, 5),
      (given [.cmd 0x1200000000000000] { atSentinel with stepCtr := 3 }, 6),
      (given [.cmd 0x2000000000801000] base, 7), (given [.cmd 0x3000000000000000] base, 8)].all
      (fun x => x.1.faultCode == 0 && x.1.env.rst.isEmpty &&
        next (step x.1) (fun t => t.faultCode == BitVec.ofNat 8 x.2)) = true := by decide
theorem witness_fault_lasts : (faulted 8 base).mode = .idle ∧ (faulted 8 base).faultCode ≠ 0 ∧
    next (runSteps 1 (given [.cmd 0x0100000000000001] (faulted 8 base))) (fun _ => true) := by decide
theorem witness_fault_lasts_rst : RstLow (given [.cmd 0x0100000000000001] (faulted 8 base)) := nofun
theorem witness_reset : ({ runAt 3 5 with env := { base.env with rst := [true] } } : State).env.rst.head? = some true ∧
    (faulted 8 { base with env := { base.env with rst := [true, false] } }).env.rst.head? = some true := by decide
theorem witness_auxiliary : next (exec .dadvance base) (fun _ => true) ∧
    (∀ n, Instr.dadvance ≠ .run n) ∧ ∀ b, Instr.dadvance ≠ instrOfKind b :=
  ⟨by decide, nofun, fun b => by cases b <;> nofun⟩
theorem witness_units : next (exec (.sched 1) base) (fun _ => true) ∧ next (exec (.dinsert 1) base) (fun _ => true) ∧
    next (exec (.dispatch 0 1) base) (fun _ => true) ∧ (∀ a b, Instr.status ≠ .dispatch a b) ∧
    next (exec .status base) (fun _ => true) := ⟨by decide, by decide, by decide, nofun, by decide⟩

end Sys2Proof.Tests
end

section
/-! PROOFS of the family 00_scope (R10, R14, R36, R95): what one step runs, where the model stops, and what no step
writes. First the work of a boundary, one equation for each case; then which meanings have a next state; then the frame
of a step. -/

namespace Sys2Proof.Machine

/-! ## The work of a boundary, one equation for each case (R14, R113) -/

section LiveWork

variable {s : State}

theorem liveWork_running_due (hm : s.mode = .running) (hb : 0 < s.budget) :
    s.liveWork = .run (instrOfKind s.dueKind) s := by
  simp only [State.liveWork, hm, State.runWork, if_pos hb]

theorem liveWork_running_end (hm : s.mode = .running) (hb : ¬ 0 < s.budget) : s.liveWork = .done s.finishRun := by
  simp only [State.liveWork, hm, State.runWork, if_neg hb]

theorem liveWork_idle_empty (hm : s.mode = .idle) (hp : s.env.pending = []) : s.liveWork = .done s := by
  simp only [State.liveWork, hm, State.idleWork, hp]

theorem liveWork_cmd_ok {w : CmdWord} {rest : List Input} {i : Instr} (hm : s.mode = .idle)
    (hp : s.env.pending = .cmd w :: rest) (hd : decode s.params.deferVW w = .ok i) :
    s.liveWork = .run i (s.takeCmd w rest) := by
  simp only [State.liveWork, hm, State.idleWork, hp, hd]

theorem liveWork_cmd_error {w : CmdWord} {rest : List Input} {e : Reject} (hm : s.mode = .idle)
    (hp : s.env.pending = .cmd w :: rest) (hd : decode s.params.deferVW w = .error e) :
    s.liveWork = .done (s.takeCmd w rest).rejectWord := by
  simp only [State.liveWork, hm, State.idleWork, hp, hd]

theorem liveWork_mop_sentinel {rest : List Input} (hm : s.mode = .idle)
    (hp : s.env.pending = .mop MOP_NEXT :: rest) : s.liveWork = .run .mopNext (s.withPending rest) := by
  simp only [State.liveWork, hm, State.idleWork, hp, decodeMop, if_true]

theorem liveWork_mop_opaque {m : MopWord} {rest : List Input} (hm : s.mode = .idle)
    (hp : s.env.pending = .mop m :: rest) (hne : m ≠ MOP_NEXT) : s.liveWork = .done (s.withPending rest) := by
  simp only [State.liveWork, hm, State.idleWork, hp, decodeMop, if_neg hne]

theorem liveWork_program {pid : Pid} {ws : List MopWord} {rest : List Input} (hm : s.mode = .idle)
    (hp : s.env.pending = .program pid ws :: rest) :
    s.liveWork = .done ((s.withPending rest).defineProg pid ws) := by
  simp only [State.liveWork, hm, State.idleWork, hp]

/-- With the reset line low, the step runs what the live block has to do after the sample. -/
theorem step_of_liveWork_run {i : Instr} {u : State} (hr : NoReset s) (h : s.afterSample.liveWork = .run i u) :
    step s = exec i u :=
  step_of_run ((work_noReset hr).trans h)

theorem step_of_liveWork_done {t : State} (hr : NoReset s) (h : s.afterSample.liveWork = .done t) :
    step s = .next t :=
  step_of_done ((work_noReset hr).trans h)

end LiveWork

/-- Settles O4: each clause is one case of the live block's work, in the state after the sample. -/
theorem stepRunsTheDecodedInstruction : Obligations.StepRunsTheDecodedInstruction := by
  intro s hr
  refine ⟨fun w rest i hm hp hd => ?_, fun rest hm hp => ?_, fun m rest hm hp hne => ?_, fun hm hb => ?_⟩
  · exact step_of_liveWork_run hr (liveWork_cmd_ok hm hp hd)
  · exact step_of_liveWork_run hr (liveWork_mop_sentinel hm hp)
  · exact step_of_liveWork_done hr (liveWork_mop_opaque hm hp hne)
  · rw [← afterSample_dueKind]
    exact step_of_liveWork_run hr (liveWork_running_due hm hb)

/-! ## Which meanings have a next state (R14, R95) -/

theorem command_running {act : State → State} {s : State} (hm : s.mode = .running) :
    s.command act = .refused .runInProgress := if_pos hm

/-- A command of an idle block has a next state: the gate's answer or its own. -/
theorem command_idle_next {s : State} (act : State → State) (hm : s.mode = .idle) :
    ∃ t, s.command act = .next t := by
  by_cases hf : s.faultCode = 0
  · exact ⟨_, command_open hm hf⟩
  · exact ⟨_, command_gated hm hf⟩

/-- A meaning that is no bus kind's is STATUS or a rule in the command frame. -/
theorem exec_status_or_command {i : Instr} (hi : ∀ b, i ≠ instrOfKind b) :
    i = .status ∨ ∃ act, ∀ s, exec i s = s.command act := by
  cases i with
  | status => exact .inl rfl
  | busRead => exact absurd rfl (hi .read)
  | busReadopcode => exact absurd rfl (hi .readOpcode)
  | busWrite => exact absurd rfl (hi .write)
  | busReady => exact absurd rfl (hi .ready)
  | busNone => exact absurd rfl (hi .none)
  | run n => exact .inr ⟨_, fun _ => rfl⟩
  | sched pid => exact .inr ⟨_, fun _ => rfl⟩
  | nextprog => exact .inr ⟨_, fun _ => rfl⟩
  | fetchop => exact .inr ⟨_, fun _ => rfl⟩
  | dispatch first last => exact .inr ⟨_, fun _ => rfl⟩
  | dvalue => exact .inr ⟨_, fun _ => rfl⟩
  | dadvance => exact .inr ⟨_, fun _ => rfl⟩
  | dinsert v => exact .inr ⟨_, fun _ => rfl⟩
  | classify iw => exact .inr ⟨_, fun _ => rfl⟩
  | mopNext => exact .inr ⟨_, fun _ => rfl⟩

/-- On an idle block every command and the sentinel have a next state. -/
theorem exec_idle_next {i : Instr} {s : State} (hi : ∀ b, i ≠ instrOfKind b) (hm : s.mode = .idle) :
    ∃ t, exec i s = .next t := by
  obtain rfl | ⟨act, h⟩ := exec_status_or_command hi
  · exact ⟨s.respond (s.statusWord.setWidth 63), by simp only [exec, execStatus, hm]⟩
  · rw [h]
    exact command_idle_next act hm

/-- During a RUN no command and no sentinel has a transition (R14). -/
theorem exec_running_refused {i : Instr} {s : State} (hi : ∀ b, i ≠ instrOfKind b) (hm : s.mode = .running) :
    exec i s = .refused .runInProgress := by
  obtain rfl | ⟨act, h⟩ := exec_status_or_command hi
  · simp only [exec, execStatus, hm]
  · rw [h, command_running hm]

/-- A bus kind's word is its code on the bus (R95). -/
theorem encode_instrOfKind (b : BusKind) : encode (instrOfKind b) = .kind (kindCode b) := by cases b <;> rfl

/-- An instruction of the command interface is no bus kind. -/
theorem encode_cmd_notKind {i : Instr} {w : CmdWord} (h : encode i = .cmd w) (b : BusKind) : i ≠ instrOfKind b := by
  rintro rfl
  rw [encode_instrOfKind] at h
  cases h

/-- A kind that is due during a RUN is in its place. -/
theorem atItsPlace_not_outside {s : State} {b : BusKind} (hm : s.mode = .running) (hd : s.dueKind = b) :
    ¬ (s.mode = .idle ∨ s.dueKind ≠ b) := by
  rintro (hi | hne)
  · rw [hm] at hi
    cases hi
  · exact hne hd

/-- An access has no transition unless the stepper is at a step of its kind. -/
theorem accessStep_notDue {want : AccessKind} {s : State} (h : s.mode = .idle ∨ s.dueKind ≠ busKindOf want) :
    s.accessStep want = .fault .notAtThisStep := by
  unfold State.accessStep
  split
  next kind addr wdata k hm hd =>
    refine if_neg fun hk => atItsPlace_not_outside hm ?_ h
    subst hk
    exact congrArg Due.kind hd
  next => rfl

theorem execBusReady_notDue {s : State} (h : s.mode = .idle ∨ s.dueKind ≠ .ready) :
    execBusReady s = .fault .notAtThisStep := by
  unfold execBusReady
  split
  next hm hd => exact absurd h (atItsPlace_not_outside hm (congrArg Due.kind hd))
  next => rfl

theorem execBusNone_notDue {s : State} (h : s.mode = .idle ∨ s.dueKind ≠ .none) :
    execBusNone s = .fault .notAtThisStep := by
  unfold execBusNone
  split
  next k hm hd => exact absurd h (atItsPlace_not_outside hm (congrArg Due.kind hd))
  next => rfl

/-- No bus kind has a transition outside its place (R95, R113). -/
theorem exec_instrOfKind_notDue {s : State} {b : BusKind} (h : s.mode = .idle ∨ s.dueKind ≠ b) :
    exec (instrOfKind b) s = .fault .notAtThisStep := by
  cases b with
  | read => exact accessStep_notDue (want := .read) h
  | readOpcode => exact accessStep_notDue (want := .readOpcode) h
  | write => exact accessStep_notDue (want := .write) h
  | ready => exact execBusReady_notDue h
  | none => exact execBusNone_notDue h

/-- Settles O8: the command frame and STATUS refuse during a RUN, and a bus kind that is not due faults. -/
theorem noTransitionOutsideItsPlace : Obligations.NoTransitionOutsideItsPlace :=
  ⟨fun _ _ hm ⟨_, hw⟩ => exec_running_refused (encode_cmd_notKind hw) hm, fun _ _ => exec_instrOfKind_notDue⟩

theorem safeStep_of_done {s t : State} (hr : NoReset s) (h : s.afterSample.liveWork = .done t) : SafeStep s :=
  ⟨t, step_of_liveWork_done hr h⟩

/-- An instruction of an idle block makes a safe step when it is no bus kind. -/
theorem safeStep_of_idle_run {s u : State} {i : Instr} (hr : NoReset s) (h : s.afterSample.liveWork = .run i u)
    (hi : ∀ b, i ≠ instrOfKind b) (hm : u.mode = .idle) : SafeStep s := by
  obtain ⟨t, ht⟩ := exec_idle_next hi hm
  exact ⟨t, (step_of_liveWork_run hr h).trans ht⟩

theorem safeStep_running {s : State} (hr : NoReset s) (hm : s.mode = .running) : SafeStep s := by
  by_cases hb : 0 < s.budget
  · exact ⟨_, (step_of_liveWork_run hr (liveWork_running_due hm hb)).trans (exec_due hm)⟩
  · exact safeStep_of_done hr (liveWork_running_end hm hb)

theorem mopNext_notKind (b : BusKind) : Instr.mopNext ≠ instrOfKind b := by cases b <;> nofun

theorem safeStep_idle {s : State} (hr : NoReset s) (hm : s.mode = .idle) : SafeStep s := by
  cases hp : s.env.pending with
  | nil => exact safeStep_of_done hr (liveWork_idle_empty hm hp)
  | cons x rest =>
    cases x with
    | cmd w =>
      cases hd : decode s.params.deferVW w with
      | ok i => exact safeStep_of_idle_run hr (liveWork_cmd_ok hm hp hd) (decode_notKind hd) hm
      | error e => exact safeStep_of_done hr (liveWork_cmd_error hm hp hd)
    | mop m =>
      by_cases hs : m = MOP_NEXT
      · subst hs
        exact safeStep_of_idle_run hr (liveWork_mop_sentinel hm hp) mopNext_notKind hm
      · exact safeStep_of_done hr (liveWork_mop_opaque hm hp hs)
    | program pid ws => exact safeStep_of_done hr (liveWork_program hm hp)

/-- Settles O6: a reset has a next state; a RUN runs only the kind that is due, and an idle block only commands and the
sentinel, so neither stop of the model is reached. -/
theorem noStepStops : Obligations.NoStepStops := by
  intro s
  by_cases hr : NoReset s
  · cases hm : s.mode with
    | running => exact safeStep_running hr hm
    | idle => exact safeStep_idle hr hm
  · exact ⟨_, step_of_done (work_reset (not_not.1 hr))⟩

/-! ## What no step writes (R10, R14, R36, R56) -/

/-- An outside world that has only logged, with the same parameters, is the same build. -/
theorem sameBuild_of_log {s t : State} {evs : List Event} (he : t.env = { s.env with log := evs ++ s.env.log })
    (hp : t.params = s.params) : SameBuild s t := by
  refine ⟨hp, ?_⟩
  rw [he]
  exact ⟨rfl, rfl, rfl, rfl, rfl, rfl, rfl⟩

theorem sameBuild_busStep {n : Nat} (kind : AccessKind) (addr wdata : Nat) (k : Arch → Nat → Arch × Fin (n + 1))
    (s : State) : SameBuild s (s.busStep kind addr wdata k) := by
  rw [busStep_eq]
  split <;> exact ⟨rfl, rfl, rfl, rfl, rfl, rfl, rfl, rfl⟩

theorem sameBuild_spinStep (s : State) : SameBuild s s.spinStep := by
  rw [spinStep_eq]
  split <;> exact ⟨rfl, rfl, rfl, rfl, rfl, rfl, rfl, rfl⟩

theorem sameBuild_intStep {n : Nat} (k : Arch → Arch × Fin (n + 1)) (s : State) : SameBuild s (s.intStep k) := by
  rw [intStep_eq]
  split <;> exact ⟨rfl, rfl, rfl, rfl, rfl, rfl, rfl, rfl⟩

theorem sameBuild_rejectWord (s : State) : SameBuild s s.rejectWord := by
  unfold State.rejectWord
  split <;> exact ⟨rfl, rfl, rfl, rfl, rfl, rfl, rfl, rfl⟩

/-- A command and the sentinel only add to the log of the outside world. -/
theorem exec_sameBuild {i : Instr} {s t : State} (hi : ∀ b, i ≠ instrOfKind b) (h : exec i s = .next t) :
    SameBuild s t := by
  obtain ⟨-, ⟨evs, he, -⟩, hp, -⟩ := exec_commandFrame hi h
  exact sameBuild_of_log he hp

/-- The frame of a step: beside the sample of the reset line only an idle block's input is used up, and only an
idle block sees a program defined. -/
theorem step_sameBuild {s t : State} (h : step s = .next t) :
    SameBuild s.afterSample t ∨
      s.mode = .idle ∧ ((∃ rest, SameBuild (s.afterSample.withPending rest) t) ∨
        ∃ pid ws rest, t = (s.afterSample.withPending rest).defineProg pid ws) := by
  rcases step_cases h with ⟨-, rfl⟩ | ⟨-, ⟨-, -, ⟨kind, a, wd, k, -, rfl⟩ | ⟨-, rfl⟩ | ⟨k, -, rfl⟩⟩ | ⟨-, -, rfl⟩ |
    ⟨-, -, rfl⟩ | ⟨w, rest, i, hm, -, hd, he⟩ | ⟨w, rest, e, hm, -, -, rfl⟩ | ⟨m, rest, i, hm, -, hd, he⟩ |
    ⟨m, rest, e, hm, -, -, rfl⟩ | ⟨pid, ws, rest, hm, -, rfl⟩⟩
  · exact .inl ⟨rfl, rfl, rfl, rfl, rfl, rfl, rfl, rfl⟩
  · exact .inl (sameBuild_busStep kind a wd k _)
  · exact .inl (sameBuild_spinStep _)
  · exact .inl (sameBuild_intStep k _)
  · exact .inl ⟨rfl, rfl, rfl, rfl, rfl, rfl, rfl, rfl⟩
  · exact .inl ⟨rfl, rfl, rfl, rfl, rfl, rfl, rfl, rfl⟩
  · have hb : SameBuild (s.afterSample.takeCmd w rest) t := exec_sameBuild (decode_notKind hd) he
    exact .inr ⟨hm, .inl ⟨rest, hb⟩⟩
  · exact .inr ⟨hm, .inl ⟨rest, sameBuild_rejectWord (s.afterSample.takeCmd w rest)⟩⟩
  · obtain rfl := decodeMop_ok hd
    exact .inr ⟨hm, .inl ⟨rest, exec_sameBuild mopNext_notKind he⟩⟩
  · exact .inr ⟨hm, .inl ⟨rest, rfl, rfl, rfl, rfl, rfl, rfl, rfl, rfl⟩⟩
  · exact .inr ⟨hm, .inr ⟨pid, ws, rest, rfl⟩⟩

/-- Settles O12: an input, a sample of the reset line and a program's definition touch none of these fields, and the
rest of a step keeps the build. -/
theorem nothingRebuildsTheBlock : Obligations.NothingRebuildsTheBlock := by
  intro s t h
  obtain ⟨hp, -, -, -, hh, hw, hs, hr⟩ | ⟨-, ⟨rest, hp, -, -, -, hh, hw, hs, hr⟩ | ⟨pid, ws, rest, rfl⟩⟩ :=
    step_sameBuild h
  · exact ⟨hp, hh, hw, hs, hr⟩
  · exact ⟨hp, hh, hw, hs, hr⟩
  · exact ⟨rfl, rfl, rfl, rfl, rfl⟩

/-- Settles O15: only an idle block takes an input, and during a RUN the step keeps the build. -/
theorem runTakesNoInput : Obligations.RunTakesNoInput := by
  intro s t hm h
  obtain ⟨-, hp, -, hs, -⟩ | ⟨hi, -⟩ := step_sameBuild h
  · exact ⟨hp, hs⟩
  · rw [hm] at hi
    cases hi

end Sys2Proof.Machine
end

section
/-! PROOFS of the family 10_state (R21 to R31, R154, R213): every step keeps the invariant. First the ring's discipline
under the two updates of the ring; then the invariant under each update of the state; then under each command, each
step of the stepper, and the step. -/

namespace Sys2Proof.Machine

variable {s t : State}

/-! ## The ring's discipline (R150, R154) -/

/-- Ring positions less than four apart are distinct. -/
theorem ringPos_inj (r : BitVec 2) {k n : Nat} (hk : k < 4) (hn : n < 4) :
    r + BitVec.ofNat 2 k = r + BitVec.ofNat 2 n ↔ k = n := by
  constructor
  · intro h
    bv_omega
  · rintro rfl
    rfl

/-- Filling the empty slot at `WIDX` makes the run of programs one longer. -/
theorem State.RingOk.push (h : s.RingOk) {pid : Pid} (hp : pid ≠ 0) (hw : s.slotAt s.widx = 0) :
    State.RingOk { s.setSlot s.widx pid with widx := s.widx + 1 } := by
  obtain ⟨n, hn, hwidx, hs⟩ := h
  have hlt : n < 4 := by
    by_contra hge
    obtain rfl : n = 4 := by omega
    exact (hs 0 (by decide)).2 (by decide) (by rw [← hw, hwidx]; rfl)
  refine ⟨n + 1, hlt, ?_, fun k hk => ?_⟩
  · show s.widx + 1 = s.ridx + BitVec.ofNat 2 (n + 1)
    bv_omega
  · show (s.setSlot s.widx pid).slotAt (s.ridx + BitVec.ofNat 2 k) ≠ 0 ↔ k < n + 1
    simp only [slotAt_setSlot, hwidx, ringPos_inj s.ridx hk hlt]
    by_cases hkn : k = n
    · simp only [hkn, if_true, ne_eq, hp, not_false_eq_true, Nat.lt_succ_self]
    · rw [if_neg hkn, hs k hk]
      omega

/-- Clearing the slot at `RIDX` makes the run of programs one shorter. -/
theorem State.RingOk.pop (h : s.RingOk) (hr : s.slotAt s.ridx ≠ 0) :
    State.RingOk { s.setSlot s.ridx 0 with ridx := s.ridx + 1, stepCtr := 0 } := by
  obtain ⟨n, hn, hwidx, hs⟩ := h
  have hpos : 0 < n := (hs 0 (by decide)).1 (by rwa [BitVec.add_zero])
  refine ⟨n - 1, by omega, ?_, fun k hk => ?_⟩
  · show s.widx = s.ridx + 1 + BitVec.ofNat 2 (n - 1)
    bv_omega
  · show (s.setSlot s.ridx 0).slotAt (s.ridx + 1 + BitVec.ofNat 2 k) ≠ 0 ↔ k < n - 1
    have hnext : s.ridx + 1 + BitVec.ofNat 2 k = s.ridx + BitVec.ofNat 2 (k + 1) := by bv_omega
    rw [hnext, slotAt_setSlot]
    by_cases hk3 : k + 1 < 4
    · have hne : s.ridx + BitVec.ofNat 2 (k + 1) ≠ s.ridx := by bv_omega
      rw [if_neg hne, hs _ hk3]
      omega
    · have heq : s.ridx + BitVec.ofNat 2 (k + 1) = s.ridx := by bv_omega
      rw [if_pos heq]
      exact ⟨fun h0 => absurd rfl h0, fun hlt => by omega⟩

/-- A reset leaves the empty ring. -/
theorem ringOk_resetBlock (s : State) : s.resetBlock.RingOk := by
  have hempty : ∀ i : BitVec 2, (#v[0, 0, 0, 0] : Vector Pid 4)[i.toNat]'i.isLt = 0 := by decide
  refine ⟨0, Nat.zero_le _, rfl, fun k _ => ⟨fun hne => ?_, fun hlt => ?_⟩⟩
  · exact absurd (hempty _) hne
  · exact absurd hlt (Nat.not_lt_zero k)

/-! ## The invariant under each update of the state -/

namespace State.Inv

theorem emit (h : s.Inv) (ev : Event) : (s.emit ev).Inv := { h with }

theorem emitAll (h : s.Inv) (evs : List Event) : (s.emitAll evs).Inv := { h with }

theorem withRst (h : s.Inv) (r : List Bool) : (s.withRst r).Inv := { h with }

theorem afterSample (h : s.Inv) : s.afterSample.Inv := h.withRst _

theorem withPending (h : s.Inv) {x : Input} {rest : List Input} (hp : s.env.pending = x :: rest) :
    (s.withPending rest).Inv :=
  { h with pending := fun y hy => h.pending y (hp ▸ List.mem_cons_of_mem x hy) }

theorem issue (h : s.Inv) (op : BusOp) : (s.issue op).Inv := { h with mem := memAfter_wf h.mem op }

theorem defineProg (h : s.Inv) {pid : Pid} {ws : List MopWord} (ho : (Input.program pid ws).Ok) :
    (s.defineProg pid ws).Inv :=
  { h with store := defineProgram_wf h.store ho.1 ho.2 }

/-- Fault entry may leave a budget behind: with a fault latched, R22's bound is not claimed. -/
theorem raise (h : s.Inv) (c : FaultCode) : (s.raise c).Inv :=
  { h with
    budgetIdle := fun _ h0 => absurd h0 (code_range c).1
    faultIdle := fun _ => rfl
    faultCode := (code_range c).2 }

theorem rejectWord (h : s.Inv) : s.rejectWord.Inv := by
  unfold State.rejectWord
  split
  · exact h.emit _
  · exact h.raise _

theorem resetBlock (h : s.Inv) : s.resetBlock.Inv :=
  { h with
    rp := Nat.succ_pos _
    lastAddr := h.params.lastAddr
    noneRun := Nat.zero_le _
    budgetLow := show -(2 ^ 16 - 2) ≤ (0 : Int) by decide
    budgetHigh := show (0 : Int) ≤ 2 ^ 31 - 1 by decide
    budgetIdle := fun _ _ => le_refl (0 : Int)
    faultIdle := fun _ => rfl
    faultCode := Nat.zero_le _
    ring := ringOk_resetBlock s
    stepIdle := fun _ => rfl
    depth := freshSlots_length _ _ _
    values := fun _ hd => (mem_freshSlots hd).2 }

/-! ## The invariant under each command -/

/-- A grant starts from no budget, so it stays within R22's bound. -/
theorem grant (h : s.Inv) (hm : s.mode = .idle) (hf : s.faultCode = 0) {n : BitVec 32} (hn : 0 < n.toInt) :
    State.Inv { s with budget := s.budget + n.toInt, mode := .running } := by
  have hb := h.budgetIdle hm hf
  have hlow := h.budgetLow
  have hhigh : n.toInt < 2 ^ 31 := BitVec.toInt_lt
  exact { h with
    budgetLow := show -(2 ^ 16 - 2) ≤ s.budget + n.toInt by omega
    budgetHigh := show s.budget + n.toInt ≤ 2 ^ 31 - 1 by omega
    budgetIdle := nofun
    faultIdle := fun hne => absurd hf hne }

theorem push (h : s.Inv) {pid : Pid} (hp : pid ≠ 0) (hw : s.slotAt s.widx = 0) :
    State.Inv { s.setSlot s.widx pid with widx := s.widx + 1 } :=
  { h with
    ring := h.ring.push hp hw
    stepIdle := fun (hr : (s.setSlot s.widx pid).slotAt s.ridx = 0) => by
      rw [slotAt_setSlot] at hr
      split at hr
      · exact absurd hr hp
      · exact h.stepIdle hr }

theorem pop (h : s.Inv) (hr : s.slotAt s.ridx ≠ 0) :
    State.Inv { s.setSlot s.ridx 0 with ridx := s.ridx + 1, stepCtr := 0 } :=
  { h with ring := h.ring.pop hr, stepIdle := fun _ => rfl }

theorem countStep (h : s.Inv) (hr : s.slotAt s.ridx ≠ 0) : State.Inv { s with stepCtr := s.stepCtr + 1 } :=
  { h with stepIdle := fun h0 => absurd h0 hr }

theorem shift (h : s.Inv) :
    State.Inv { s with
      dslots := shiftSlots (DSlot.fresh s.params.deferVW s.draws) s.dslots
      draws := s.draws + 1 } :=
  { h with
    depth := (shiftSlots_length _ (h.depth.symm ▸ h.params.depth)).trans h.depth
    values := fun d hd => by
      obtain rfl | hd := mem_shiftSlots hd
      · exact (fresh_value _ _).2
      · exact h.values d hd }

theorem insertValue (h : s.Inv) {v : BitVec 32} (hv : v.toNat < 2 ^ s.params.deferVW) (i : Nat) :
    State.Inv { s with dslots := s.dslots.set i { valid := true, value := v } } :=
  { h with
    depth := List.length_set.trans h.depth
    values := fun d hd => by
      obtain hd | rfl := List.mem_or_eq_of_mem_set hd
      · exact h.values d hd
      · exact hv }

/-- A gated command only answers, so the invariant rests on the command's own outcomes. -/
theorem answered {own : Prop} (h : s.Inv) (ha : Answered s t own)
    (hown : s.mode = .idle → s.faultCode = 0 → own → t.Inv) : t.Inv := by
  obtain ⟨hm, ⟨-, rfl⟩ | ⟨hf, ho⟩⟩ := ha
  · exact h.emit _
  · exact hown hm hf ho

theorem execNext {i : Instr} (h : s.Inv) (hi : i = .nextprog ∨ i = .mopNext) (he : exec i s = .next t) : t.Inv := by
  refine h.answered (execNext_cases hi he) fun _ _ ho => ?_
  obtain ⟨-, rfl⟩ | ⟨hr, rfl⟩ := ho
  · exact h.raise _
  · exact (h.pop hr).emit _

/-- Every command and the sentinel keep the invariant. -/
theorem execCommand {i : Instr} (h : s.Inv) (hi : ∀ b, i ≠ instrOfKind b) (he : exec i s = .next t) : t.Inv := by
  cases i with
  | run n =>
    refine h.answered (execRun_cases he) fun hm hf ho => ?_
    obtain ⟨-, rfl⟩ | ⟨hn, rfl⟩ := ho
    · exact h.emit _
    · exact h.grant hm hf hn
  | sched pid =>
    refine h.answered (execSched_cases he) fun _ _ ho => ?_
    obtain ⟨-, rfl⟩ | ⟨-, -, rfl⟩ | ⟨hp, hw, rfl⟩ := ho
    · exact h.raise _
    · exact h.raise _
    · exact (h.push hp hw).emit _
  | nextprog => exact h.execNext (.inl rfl) he
  | mopNext => exact h.execNext (.inr rfl) he
  | fetchop =>
    refine h.answered (execFetchop_cases he) fun _ _ ho => ?_
    obtain ⟨-, rfl⟩ | ⟨-, -, rfl⟩ | ⟨m, hr, -, rfl⟩ := ho
    · exact h.raise _
    · exact h.raise _
    · exact (h.countStep hr).emit _
  | dispatch first last =>
    refine h.answered (execDispatch_cases he) fun _ _ ho => ?_
    obtain ⟨-, rfl⟩ | ⟨-, rfl⟩ := ho
    · exact h.raise _
    · exact (h.emitAll _).emit _
  | dvalue =>
    refine h.answered (execDvalue_cases he) fun _ _ ho => ?_
    obtain ⟨-, rfl⟩ | ⟨v, -, rfl⟩ := ho
    · exact h.raise _
    · exact h.emit _
  | dadvance =>
    refine h.answered (execDadvance_cases he) fun _ _ ho => ?_
    subst ho
    exact h.shift.emit _
  | dinsert v =>
    refine h.answered (execDinsert_cases he) fun _ _ ho => ?_
    obtain ⟨-, rfl⟩ | ⟨hv, rfl⟩ := ho
    · exact h.raise _
    · exact (h.insertValue hv _).emit _
  | classify iw =>
    refine h.answered (execClassify_cases he) fun _ _ ho => ?_
    subst ho
    exact h.emit _
  | status =>
    obtain ⟨-, rfl⟩ := execStatus_cases he
    exact h.emit _
  | busRead => exact absurd rfl (hi .read)
  | busReadopcode => exact absurd rfl (hi .readOpcode)
  | busWrite => exact absurd rfl (hi .write)
  | busReady => exact absurd rfl (hi .ready)
  | busNone => exact absurd rfl (hi .none)

/-! ## The invariant under each step of the stepper -/

/-- A cost is at most `2^16 - 1` and a step starts with a budget of at least 1, so the debt stays within R22's bound. -/
theorem spend (h : s.Inv) (hm : s.mode = .running) (hb : 0 < s.budget) (c : Cost) :
    State.Inv { s with noneRun := 0, budget := s.budget - c.toNat } := by
  have hc := c.isLt
  have hhigh := h.budgetHigh
  exact { h with
    noneRun := Nat.zero_le _
    budgetLow := show -(2 ^ 16 - 2) ≤ s.budget - c.toNat by omega
    budgetHigh := show s.budget - c.toNat ≤ 2 ^ 31 - 1 by omega
    budgetIdle := fun hi => nomatch hm.symm.trans hi }

theorem busStep (h : s.Inv) (hm : s.mode = .running) (hb : 0 < s.budget) (kind : AccessKind) (addr wdata : Nat)
    (k : Arch → Nat → Arch × Fin (s.seq.lastRp + 1)) : (s.busStep kind addr wdata k).Inv := by
  rw [busStep_eq]
  split
  · exact (h.issue _).raise _
  · exact { (h.issue _).spend hm hb _ with rp := Fin.isLt _, lastAddr := Nat.mod_lt _ (Nat.two_pow_pos _) }

theorem spinStep (h : s.Inv) (hm : s.mode = .running) (hb : 0 < s.budget) : s.spinStep.Inv := by
  rw [spinStep_eq]
  split
  · exact (h.issue _).raise _
  · exact { (h.issue _).spend hm hb _ with }

theorem intStep (h : s.Inv) (k : Arch → Arch × Fin (s.seq.lastRp + 1)) : (s.intStep k).Inv := by
  rw [intStep_eq]
  split
  · exact h.raise _
  · rename_i hne
    exact { h with rp := Fin.isLt _, noneRun := Nat.lt_of_le_of_ne h.noneRun hne }

theorem finishRun (h : s.Inv) (hb : s.budget ≤ 0) : s.finishRun.Inv :=
  { h with budgetIdle := fun _ _ => hb, faultIdle := fun _ => rfl }

end State.Inv

/-- Settles O10: the sample of the reset line is no part of the invariant, and each case of the step is an update that
keeps it. -/
theorem everyStepKeepsTheInvariant : Obligations.EveryStepKeepsTheInvariant := by
  intro s t h0 hst
  have h := h0.afterSample
  rcases step_cases hst with ⟨-, rfl⟩ | ⟨-, ⟨hm, hb, ⟨kind, a, wd, k, -, rfl⟩ | ⟨-, rfl⟩ | ⟨k, -, rfl⟩⟩ | ⟨-, hb, rfl⟩ |
    ⟨-, -, rfl⟩ | ⟨w, rest, i, -, hp, hd, he⟩ | ⟨w, rest, e, -, hp, -, rfl⟩ | ⟨m, rest, i, -, hp, hd, he⟩ |
    ⟨m, rest, e, -, hp, -, rfl⟩ | ⟨pid, ws, rest, -, hp, rfl⟩⟩
  · exact h.resetBlock
  · exact h.busStep hm hb kind a wd k
  · exact h.spinStep hm hb
  · exact h.intStep k
  · exact h.finishRun hb
  · exact h
  · exact ((h.withPending hp).emit _).execCommand (decode_notKind hd) he
  · exact ((h.withPending hp).emit _).rejectWord
  · obtain rfl := decodeMop_ok hd
    exact (h.withPending hp).execNext (.inr rfl) he
  · exact h.withPending hp
  · exact (h.withPending hp).defineProg (h.pending _ (hp ▸ List.mem_cons_self))

end Sys2Proof.Machine
end

section
/-! PROOFS of the family 20_memory (R50 to R74, R115, R152, R170 to R173): the bus operations of a step, the bytes of
the handlers' memory, the program store, the perform channel and the packed backlog. First what each operation of the
model does, then the bus operations of one step; each statement stands after the lemmas it needs. -/

namespace Sys2Proof.Machine

variable {s t : State}

/-! ## The packed backlog (R62) -/

theorem packSlots_cons_mod (vw : Nat) (d : DSlot) (l : List DSlot) :
    packSlots vw (d :: l) % 2 ^ vw = d.value.toNat % 2 ^ vw := by
  rw [packSlots, Nat.add_mul_mod_self_left, Nat.mod_mod]

theorem packSlots_cons_div (vw : Nat) (d : DSlot) (l : List DSlot) :
    packSlots vw (d :: l) / 2 ^ vw = packSlots vw l := by
  have hlow : d.value.toNat % 2 ^ vw / 2 ^ vw = 0 := Nat.div_eq_of_lt (Nat.mod_lt _ (Nat.two_pow_pos vw))
  rw [packSlots, Nat.add_mul_div_left _ _ (Nat.two_pow_pos vw), hlow, Nat.zero_add]

/-- Settles O43, by induction on the slots: a slot's value is the low field of the word that begins with it, and the
word without its low field packs the slots after the first. -/
theorem packedBacklogLayout : Obligations.PackedBacklogLayout := by
  intro vw l i d hd hv
  induction l generalizing i with
  | nil => cases hd
  | cons e l ih =>
    cases i with
    | zero =>
      obtain rfl : e = d := Option.some.inj hd
      rw [Nat.zero_mul, Nat.pow_zero, Nat.div_one, packSlots_cons_mod, Nat.mod_eq_of_lt hv]
    | succ i =>
      have hsplit : 2 ^ ((i + 1) * vw) = 2 ^ vw * 2 ^ (i * vw) := by rw [Nat.succ_mul, Nat.pow_add, Nat.mul_comm]
      rw [hsplit, ← Nat.div_div_eq_div_mul, packSlots_cons_div]
      exact ih i hd

/-! ## Responses and fault entry (R87, R213) -/

/-- A response of a state that differs from `s` in no part of the outside world. -/
theorem onlyLogs_respond {u : State} {w : Nat} (he : u.env = s.env) (hw : w ≤ 63) (v : BitVec w) :
    OnlyLogs [.resp (v.setWidth 64)] s (u.respond (v.setWidth 63)) := by
  refine ⟨?_, fun a => ?_⟩
  · rw [respond_eq, okWord_setWidth hw, State.emit, he]
    rfl
  · simp only [State.byteAt, respond_eq, emit_env_mem, he]

/-- A change outside the block is no change of the block. -/
theorem sameBlock_withEnv (s : State) (e : Env) : SameBlock s { s with env := e } :=
  ⟨⟨rfl, rfl, rfl, rfl, rfl, rfl, rfl⟩, ⟨rfl, rfl, rfl, rfl⟩, rfl, rfl⟩

theorem faultEntry_raise (c : FaultCode) (s : State) : FaultEntry c s (s.raise c) :=
  ⟨rfl, rfl, ⟨rfl, rfl, rfl, rfl, rfl, rfl⟩, ⟨rfl, rfl, rfl, rfl⟩, rfl, rfl, rfl⟩

/-! ## FETCHOP and the program store (R56, R152, R222) -/

section Fetchop

variable (hm : s.mode = .idle) (hf : s.faultCode = 0) (hs : s.slotAt s.ridx ≠ 0)
include hm hf hs

theorem exec_fetchop_word {m : MopWord} (hw : (s.prog (s.slotAt s.ridx))[s.stepCtr.toNat]? = some m) :
    exec .fetchop s = .next (State.respond (m.setWidth 63) { s with stepCtr := s.stepCtr + 1 }) := by
  simp only [exec, execFetchop, command_open hm hf, if_neg hs, hw]

theorem exec_fetchop_end (hl : (s.prog (s.slotAt s.ridx)).length ≤ s.stepCtr.toNat) :
    exec .fetchop s = .next (s.raise .schedUnterminated) := by
  simp only [exec, execFetchop, command_open hm hf, if_neg hs, List.getElem?_eq_none hl]

end Fetchop

/-- A word of a program of a store in form stands below 65535, so the step counter does not wrap. -/
theorem stepCtr_succ_toNat {pid : Pid} {m : MopWord} (hst : Store.wf s.env.store)
    (hw : (s.prog pid)[s.stepCtr.toNat]? = some m) : (s.stepCtr + 1).toNat = s.stepCtr.toNat + 1 := by
  obtain ⟨hlt, -⟩ := List.getElem?_eq_some_iff.1 hw
  have hle : (s.prog pid).length ≤ 65535 := assocGet_length_le hst pid.toNat
  bv_omega

/-- Settles O31: the word is there, so FETCHOP answers it, and the store's form keeps the step counter from
wrapping. -/
theorem fetchopReadsTheCurrentWord : Obligations.FetchopReadsTheCurrentWord := by
  intro s m hm hf hst hs hw
  exact ⟨_, exec_fetchop_word hm hf hs hw, stepCtr_succ_toNat hst hw, rfl, rfl, rfl,
    ⟨rfl, rfl, rfl, rfl, rfl, rfl, rfl⟩, rfl, hf, rfl, rfl, onlyLogs_respond rfl (by decide) m⟩

/-- A program reads back after its owner defines it, and no other program changes (R56). -/
theorem prog_defineProg (hst : Store.wf s.env.store) (pid : Pid) (ws : List MopWord) (p : Pid) :
    (s.defineProg pid ws).prog p = if p = pid then ws else s.prog p := by
  have hget : (s.defineProg pid ws).prog p = if p.toNat = pid.toNat then ws else s.prog p :=
    assocGet_put pid.toNat ws hst.1 p.toNat
  simpa only [BitVec.toNat_inj] using hget

/-- The step that takes an owner's change only stores the program. -/
theorem step_program {pid : Pid} {ws : List MopWord} {rest : List Input} (hr : NoReset s) (hm : s.mode = .idle)
    (hp : s.env.pending = .program pid ws :: rest) (hst : Store.wf s.env.store) :
    ∃ t, step s = .next t ∧ (∀ p, t.prog p = if p = pid then ws else s.prog p) ∧ SameBlock s t ∧
      t.params = s.params ∧ t.env.log = s.env.log ∧ t.env.pending = rest ∧ SameBus s t :=
  ⟨_, step_of_liveWork_done hr (liveWork_program hm hp),
    prog_defineProg (s := s.afterSample.withPending rest) hst pid ws, sameBlock_withEnv s _, rfl, rfl, rfl,
    fun _ => rfl, rfl, rfl, rfl, rfl⟩

/-- Settles O33: the step only stores the program, so the next FETCHOP meets the changed store in the same block. -/
theorem ownerChangesAreSeen : Obligations.OwnerChangesAreSeen := by
  intro s pid ws rest hr hm hp hst
  obtain ⟨t, hstep, hprog, hblock, hparams, hlog, hpend, hbus⟩ := step_program hr hm hp hst
  have ⟨⟨hmode, _⟩, ⟨hslots, hridx, _, hctr⟩, _, hfault⟩ := hblock
  have hcur : t.slotAt t.ridx = s.slotAt s.ridx := by rw [hridx, slotAt_congr hslots]
  refine ⟨t, hstep, hprog, hblock, hparams, hlog, hpend, hbus, fun m hf hs hw => ?_, fun hf hs hl => ?_⟩
  · rw [← hprog, ← hcur, ← hctr] at hw
    exact ⟨_, exec_fetchop_word (hmode.trans hm) (hfault.trans hf) (hcur ▸ hs) hw, congrArg (· + 1) hctr,
      onlyLogs_respond rfl (by decide) m⟩
  · rw [← hprog, ← hcur, ← hctr] at hl
    exact ⟨_, exec_fetchop_end (hmode.trans hm) (hfault.trans hf) (hcur ▸ hs) hl, faultEntry_raise _ _⟩

/-! ## DISPATCH (R170 to R172) -/

/-- The converted indices of `[first, last)`, in ascending order. -/
def performIndices (p : Params) (first last : Nat) : List Nat :=
  (List.range' first (last - first)).map (convertIndex p)

theorem performEvents_eq (p : Params) (first last : Nat) :
    performEvents p first last = (performIndices p first last).map Event.perform := by
  rw [performIndices, List.map_map]
  rfl

theorem performIndices_length (p : Params) (first last : Nat) :
    (performIndices p first last).length = last - first := by
  rw [performIndices, List.length_map, List.length_range']

theorem performIndices_getElem? (p : Params) {first last i : Nat} (hi : i < last - first) :
    (performIndices p first last)[i]? = some (convertIndex p (first + i)) := by
  rw [performIndices, List.getElem?_map, List.getElem?_range' hi, Nat.one_mul]
  rfl

theorem convertIndex_identity {p : Params} (h : p.convert = none) (i : Nat) : convertIndex p i = i := by
  simp only [convertIndex, h]

theorem convertIndex_table {p : Params} {l : List Nat} {i j : Nat} (h : p.convert = some l) (hj : l[i]? = some j) :
    convertIndex p i = j := by
  simp only [convertIndex, h, List.getD_eq_getElem?_getD, hj, Option.getD_some]

/-- CONVERT is total into the perform index space (R171). -/
theorem convertIndex_lt {p : Params} (hp : ParamsOk p) {i : Nat} (hi : i < p.dispatchN) :
    convertIndex p i < p.performM := by
  have hc := hp.convert
  cases h : p.convert with
  | none =>
    rw [h] at hc
    rw [convertIndex_identity h, hc]
    exact hi
  | some l =>
    rw [h] at hc
    obtain ⟨hlen, hmem⟩ := hc
    have hil : i < l.length := hlen ▸ hi
    rw [convertIndex_table h (List.getElem?_eq_getElem hil)]
    exact hmem _ (List.getElem_mem hil)

theorem performIndices_lt {p : Params} (hp : ParamsOk p) {first last : Nat} (hl : last ≤ p.dispatchN) {j : Nat}
    (hj : j ∈ performIndices p first last) : j < p.performM := by
  obtain ⟨i, hi, rfl⟩ := List.mem_map.1 hj
  have hrange := List.mem_range'_1.1 hi
  exact convertIndex_lt hp (by omega)

theorem exec_dispatch_range {first last : BitVec 12} (hm : s.mode = .idle) (hf : s.faultCode = 0)
    (hr : first.toNat ≤ last.toNat ∧ last.toNat ≤ s.params.dispatchN) :
    exec (.dispatch first last) s =
      .next ((s.emitAll ((performIndices s.params first.toNat last.toNat).map Event.perform)).respond 0) := by
  simp only [exec, execDispatch, command_open hm hf, rangeLegal, hr, and_self, decide_true, Bool.not_true,
    Bool.false_eq_true, if_false, performEvents_eq]

/-- Settles O34: the events are those of the range's converted indices, each read off at its place. -/
theorem dispatchPerformsTheRange : Obligations.DispatchPerformsTheRange := by
  intro s first last hm hf hfl hln
  refine ⟨_, performIndices s.params first.toNat last.toNat, exec_dispatch_range hm hf ⟨hfl, hln⟩,
    performIndices_length _ _ _, fun hc i hi => ?_, fun l hc i j hi hj => ?_, ⟨rfl, fun _ => rfl⟩,
    fun hp j hj => performIndices_lt hp hln hj, sameBlock_withEnv s _, rfl, rfl⟩
  · rw [performIndices_length] at hi
    rw [performIndices_getElem? _ hi, convertIndex_identity hc]
  · rw [performIndices_length] at hi
    rw [performIndices_getElem? _ hi, convertIndex_table hc hj]

/-! ## A completed access (R53, R115) -/

theorem busKindOf_eq_write {kind : AccessKind} : busKindOf kind = .write ↔ kind = .write := by
  cases kind <;> decide

/-- An access of nonzero cost completes. -/
theorem exec_access_done {kind : AccessKind} {a wd : Nat} {k : Arch → Nat → Arch × Fin (s.seq.lastRp + 1)}
    (hm : s.mode = .running) (hd : s.due = .access kind a wd k)
    (hc : (busAnswer s.env (accessOp s.params kind a wd)).cost ≠ 0) :
    exec (instrOfKind (busKindOf kind)) s = .next (accessDone kind a wd k s) := by
  rw [exec_access hm hd, busStep_eq, if_neg hc]

theorem sameBuild_accessDone {n : Nat} (kind : AccessKind) (a wd : Nat) (k : Arch → Nat → Arch × Fin (n + 1))
    (s : State) : SameBuild s (accessDone kind a wd k s) := ⟨rfl, rfl, rfl, rfl, rfl, rfl, rfl, rfl⟩

/-- Every byte but the one a Write drives reads as before. -/
theorem accessDone_byteAt_frame {n : Nat} {kind : AccessKind} {a wd : Nat} {k : Arch → Nat → Arch × Fin (n + 1)}
    (hmem : Memory.wf s.env.mem) {x : Nat} (hx : x ≠ busAddr s.params a ∨ kind ≠ .write) :
    (accessDone kind a wd k s).byteAt x = s.byteAt x :=
  readByte_memAfter hmem (accessOp s.params kind a wd) (hx.imp_right (mt busKindOf_eq_write.1))

/-- A named handler holds the byte a Write drives. -/
theorem accessDone_byteAt_written {n : Nat} {a wd : Nat} {k : Arch → Nat → Arch × Fin (n + 1)}
    (hmem : Memory.wf s.env.mem) (hh : s.env.handler = .refhnd ∨ s.env.handler = .zerohnd) :
    (accessDone .write a wd k s).byteAt (busAddr s.params a) = BitVec.ofNat 8 (busData s.params wd) := by
  show readByte (memAfter s.env (accessOp s.params .write a wd)) (busAddr s.params a) = _
  rw [memAfter_write hh rfl, readByte_write _ _ hmem]
  exact if_pos rfl

/-- Settles O24: the instruction is the bus kind of the micro-step and the operation its record, so the access
completes; the bytes are those of the handler's memory after the operation. -/
theorem accessStepCompletes : Obligations.AccessStepCompletes := by
  intro s kind i b a wd k op hkind hop hm hd hmem hc
  obtain ⟨rfl, rfl⟩ : i = instrOfKind (busKindOf kind) ∧ b = busKindOf kind := by
    obtain ⟨rfl, hi, hb⟩ | ⟨rfl, hi, hb⟩ | ⟨rfl, hi, hb⟩ := hkind <;> exact ⟨hi, hb⟩
  obtain rfl : op = accessOp s.params kind a wd := hop
  refine ⟨_, exec_access_done hm hd hc, rfl, rfl, rfl, rfl, rfl, hm, ⟨rfl, rfl, rfl, rfl⟩, rfl, rfl,
    sameBuild_accessDone kind a wd k s, rfl, rfl, fun x hx => accessDone_byteAt_frame hmem hx, fun hk hh => ?_⟩
  subst hk
  exact accessDone_byteAt_written hmem hh

/-! ## The bus operation of one step (R52, R67, R93, R95) -/

/-- The bus record of a step that is due in `s`, if it drives the bus. -/
def Due.op {n : Nat} (s : State) : Due n → Option BusOp
  | .access kind a wd _ => some (accessOp s.params kind a wd)
  | .spin => some (spinOp s)
  | .internal _ => none

theorem Due.op_kind {n : Nat} {d : Due n} {op : BusOp} (h : d.op s = some op) : op.kind = d.kind := by
  cases d <;> cases h <;> rfl

/-- No operation has reached the bus: the log has only other events more, and the handler's memory is the same. -/
def NoOperation (s t : State) : Prop :=
  t.env.mem = s.env.mem ∧ ∃ evs, t.env.log = evs ++ s.env.log ∧ busTrace evs = []

/-- One operation has reached the bus and been answered, before at most an `ERR` response. -/
def Issued (op : BusOp) (s t : State) : Prop :=
  t.env.mem = memAfter s.env op ∧
    (t.env.log = .bus op (busAnswer s.env op) :: s.env.log ∨
      ∃ w, t.env.log = .resp w :: .bus op (busAnswer s.env op) :: s.env.log)

theorem NoOperation.trans {u : State} (h : NoOperation s t) (h' : NoOperation t u) : NoOperation s u := by
  obtain ⟨hm, evs, hl, hb⟩ := h
  obtain ⟨hm', evs', hl', hb'⟩ := h'
  exact ⟨hm'.trans hm, evs' ++ evs, by rw [hl', hl, List.append_assoc], by rw [busTrace_append, hb, hb']; rfl⟩

theorem noOperation_of_command {i : Instr} (hi : ∀ b, i ≠ instrOfKind b) (h : exec i s = .next t) :
    NoOperation s t := by
  obtain ⟨-, ⟨evs, he, ha⟩, -⟩ := exec_commandFrame hi h
  exact ⟨by rw [he], evs, by rw [he], busTrace_answers ha⟩

theorem noOperation_takeCmd (w : CmdWord) (rest : List Input) : NoOperation s (s.afterSample.takeCmd w rest) :=
  ⟨rfl, [.cmd w], rfl, rfl⟩

theorem noOperation_withPending (rest : List Input) : NoOperation s (s.afterSample.withPending rest) :=
  ⟨rfl, [], rfl, rfl⟩

theorem noOperation_rejectWord (s : State) : NoOperation s s.rejectWord := by
  unfold State.rejectWord
  split <;> exact ⟨rfl, [.resp _], rfl, rfl⟩

theorem noOperation_intStep {n : Nat} (k : Arch → Arch × Fin (n + 1)) (s : State) : NoOperation s (s.intStep k) := by
  rw [intStep_eq]
  split
  · exact ⟨rfl, [.resp _], rfl, rfl⟩
  · exact ⟨rfl, [], rfl, rfl⟩

theorem issued_busStep {n : Nat} (kind : AccessKind) (a wd : Nat) (k : Arch → Nat → Arch × Fin (n + 1)) (s : State) :
    Issued (accessOp s.params kind a wd) s (s.busStep kind a wd k) := by
  rw [busStep_eq]
  split
  · exact ⟨rfl, .inr ⟨_, rfl⟩⟩
  · exact ⟨rfl, .inl rfl⟩

theorem issued_spinStep (s : State) : Issued (spinOp s) s s.spinStep := by
  rw [spinStep_eq]
  split
  · exact ⟨rfl, .inr ⟨_, rfl⟩⟩
  · exact ⟨rfl, .inl rfl⟩

/-- The sample of the reset line is no part of the handler's answer. -/
theorem issued_of_afterSample {op : BusOp} (h : Issued op s.afterSample t) : Issued op s t := by
  rw [Issued, afterSample_busAnswer] at h
  exact h

/-- The bus operations of one step: none, or the one of the step that is due during a RUN. -/
theorem step_operation (h : step s = .next t) :
    NoOperation s t ∨ s.mode = .running ∧ ∃ op, s.due.op s = some op ∧ Issued op s t := by
  rcases step_cases h with ⟨-, rfl⟩ | ⟨-, ⟨hm, -, ⟨kind, a, wd, k, hd, rfl⟩ | ⟨hd, rfl⟩ | ⟨k, -, rfl⟩⟩ | ⟨-, -, rfl⟩ |
    ⟨-, -, rfl⟩ | ⟨w, rest, i, -, -, hd, he⟩ | ⟨w, rest, e, -, -, -, rfl⟩ | ⟨m, rest, i, -, -, hd, he⟩ |
    ⟨m, rest, e, -, -, -, rfl⟩ | ⟨pid, ws, rest, -, -, rfl⟩⟩
  · exact .inl ⟨rfl, [.rst], rfl, rfl⟩
  · have hop : s.due.op s = some (accessOp s.params kind a wd) :=
      congrArg (Due.op s) ((afterSample_due s).symm.trans hd)
    exact .inr ⟨hm, _, hop, issued_of_afterSample (issued_busStep kind a wd k _)⟩
  · have hop : s.due.op s = some (spinOp s) := congrArg (Due.op s) ((afterSample_due s).symm.trans hd)
    exact .inr ⟨hm, _, hop, issued_of_afterSample (issued_spinStep _)⟩
  · exact .inl (noOperation_intStep k s.afterSample)
  · exact .inl ⟨rfl, [.resp _, .flush], rfl, rfl⟩
  · exact .inl ⟨rfl, [], rfl, rfl⟩
  · exact .inl ((noOperation_takeCmd w rest).trans (noOperation_of_command (decode_notKind hd) he))
  · exact .inl ((noOperation_takeCmd w rest).trans (noOperation_rejectWord _))
  · obtain rfl := decodeMop_ok hd
    exact .inl ((noOperation_withPending rest).trans (noOperation_of_command mopNext_notKind he))
  · exact .inl (noOperation_withPending rest)
  · exact .inl ⟨rfl, [], rfl, rfl⟩

/-- An issued operation is the only one the log has more. -/
theorem Issued.log {op : BusOp} (h : Issued op s t) :
    ∃ evs, t.env.log = evs ++ s.env.log ∧ busTrace evs = [(op, busAnswer s.env op)] := by
  obtain ⟨-, hl | ⟨w, hl⟩⟩ := h
  · exact ⟨[.bus op (busAnswer s.env op)], hl, rfl⟩
  · exact ⟨[.resp w, .bus op (busAnswer s.env op)], hl, rfl⟩

/-- Settles O13: a step issues nothing or the operation of the step that is due, whose record `Due.op` reads off. -/
theorem oneOperationAtATime : Obligations.OneOperationAtATime := by
  intro s t h
  obtain ⟨-, evs, hl, hb⟩ | ⟨hm, op, hop, hi⟩ := step_operation h
  · exact ⟨evs, hl, by rw [hb]; exact Nat.zero_le 1, by rw [hb]; nofun⟩
  · obtain ⟨evs, hl, hb⟩ := hi.log
    refine ⟨evs, hl, by rw [hb]; rfl, fun x hx => ?_⟩
    rw [hb, List.mem_singleton] at hx
    subst hx
    have hrec {d : Due s.seq.lastRp} (hd : s.due = d) : d.op s = some op := hd ▸ hop
    exact ⟨hm, rfl, Due.op_kind hop, fun _ _ _ hd => (Option.some.inj (hrec hd)).symm,
      fun _ _ _ hd => (Option.some.inj (hrec hd)).symm, fun _ _ _ hd => (Option.some.inj (hrec hd)).symm,
      fun hd => (Option.some.inj (hrec hd)).symm, fun _ hd => nomatch hrec hd⟩

/-! ## The bytes of the handlers' memory (R53, R63) -/

/-- The memory after an operation is the old one, or a Write's. -/
theorem memAfter_cases (e : Env) (op : BusOp) :
    memAfter e op = e.mem ∨
      op.kind = .write ∧ memAfter e op = writeByte e.mem op.addr (BitVec.ofNat 8 op.wdata) := by
  by_cases hk : op.kind = .write
  · by_cases hh : e.handler = .refhnd ∨ e.handler = .zerohnd
    · exact .inr ⟨hk, memAfter_write hh hk⟩
    · obtain ⟨h1, h2⟩ := not_or.1 hh
      exact .inl (memAfter_unnamed h1 h2)
  · exact .inl (memAfter_of_not_write hk)

/-- The byte that an operation changes is the one a Write drives. -/
theorem readByte_memAfter_changed {e : Env} {op : BusOp} {a : Nat} (hmem : Memory.wf e.mem)
    (hne : readByte (memAfter e op) a ≠ readByte e.mem a) :
    op.kind = .write ∧ op.addr = a ∧ readByte (memAfter e op) a = BitVec.ofNat 8 op.wdata := by
  obtain hsame | ⟨hk, hwrite⟩ := memAfter_cases e op
  · exact absurd (congrArg (readByte · a) hsame) hne
  · rw [hwrite, readByte_write _ _ hmem] at hne ⊢
    by_cases ha : a = op.addr
    · exact ⟨hk, ha.symm, if_pos ha⟩
    · exact absurd (if_neg ha) hne

/-- Settles O14: without an operation the memory is the same, and an operation changes only the byte a Write
drives. -/
theorem onlyAWriteChangesAByte : Obligations.OnlyAWriteChangesAByte := by
  intro s t a hmem h hne
  obtain ⟨hm, -⟩ | ⟨-, op, -, hi⟩ := step_operation h
  · exact absurd (congrArg (readByte · a) hm) hne
  · obtain ⟨evs, hl, hb⟩ := hi.log
    obtain ⟨hm, -⟩ := hi
    simp only [State.byteAt, hm] at hne ⊢
    exact ⟨op, busAnswer s.env op, by rw [hl, busTrace_append, hb]; rfl, readByte_memAfter_changed hmem hne⟩

/-! ## The auxiliary units (R50, R112 to R118, R155, R173, R185, R194, R201) -/

/-- What the gate's refusal and each of a command's own outcomes keep, the command keeps. -/
theorem Answered.keeps {own : Prop} {P : State → Prop} (ha : Answered s t own) (hgate : P s.respondFault)
    (hown : own → P t) : P t := by
  obtain ⟨-, ⟨-, rfl⟩ | ⟨-, ho⟩⟩ := ha
  · exact hgate
  · exact hown ho

/-- The deferred unit, with the counter of its free values. -/
def KeepsDeferred (s t : State) : Prop := SameDeferred s t ∧ t.draws = s.draws

/-- The scheduler and the deferred unit. -/
def KeepsUnits (s t : State) : Prop := SameScheduler s t ∧ KeepsDeferred s t

theorem keepsUnits_refl (s : State) : KeepsUnits s s := ⟨⟨rfl, rfl, rfl, rfl⟩, rfl, rfl⟩

theorem scheduler_keepsDeferred {i : Instr}
    (hi : (∃ pid, i = .sched pid) ∨ i = .fetchop ∨ i = .nextprog ∨ i = .mopNext)
    (h : exec i s = .next t) : KeepsDeferred s t := by
  have hnext (hn : i = .nextprog ∨ i = .mopNext) : KeepsDeferred s t :=
    (execNext_cases hn h).keeps ⟨rfl, rfl⟩ (by rintro (⟨-, rfl⟩ | ⟨-, rfl⟩) <;> exact ⟨rfl, rfl⟩)
  obtain ⟨pid, rfl⟩ | rfl | hn | hn := hi
  · exact (execSched_cases h).keeps ⟨rfl, rfl⟩ (by rintro (⟨-, rfl⟩ | ⟨-, -, rfl⟩ | ⟨-, -, rfl⟩) <;> exact ⟨rfl, rfl⟩)
  · exact (execFetchop_cases h).keeps ⟨rfl, rfl⟩
      (by rintro (⟨-, rfl⟩ | ⟨-, -, rfl⟩ | ⟨m, -, -, rfl⟩) <;> exact ⟨rfl, rfl⟩)
  · exact hnext (.inl hn)
  · exact hnext (.inr hn)

theorem pipeline_keepsScheduler {i : Instr} (hi : i = .dvalue ∨ i = .dadvance ∨ ∃ v, i = .dinsert v)
    (h : exec i s = .next t) : SameScheduler s t := by
  obtain rfl | rfl | ⟨v, rfl⟩ := hi
  · exact (execDvalue_cases h).keeps ⟨rfl, rfl, rfl, rfl⟩
      (by rintro (⟨-, rfl⟩ | ⟨v, -, rfl⟩) <;> exact ⟨rfl, rfl, rfl, rfl⟩)
  · exact (execDadvance_cases h).keeps ⟨rfl, rfl, rfl, rfl⟩ (by rintro rfl; exact ⟨rfl, rfl, rfl, rfl⟩)
  · exact (execDinsert_cases h).keeps ⟨rfl, rfl, rfl, rfl⟩
      (by rintro (⟨-, rfl⟩ | ⟨-, rfl⟩) <;> exact ⟨rfl, rfl, rfl, rfl⟩)

theorem dispatchClassifyStatus_keepsUnits {i : Instr}
    (hi : (∃ a b, i = .dispatch a b) ∨ (∃ iw, i = .classify iw) ∨ i = .status)
    (h : exec i s = .next t) : KeepsUnits s t := by
  obtain ⟨a, b, rfl⟩ | ⟨iw, rfl⟩ | rfl := hi
  · exact (execDispatch_cases h).keeps (keepsUnits_refl s)
      (by rintro (⟨-, rfl⟩ | ⟨-, rfl⟩) <;> exact keepsUnits_refl s)
  · exact (execClassify_cases h).keeps (keepsUnits_refl s) (by rintro rfl; exact keepsUnits_refl s)
  · obtain ⟨-, rfl⟩ := execStatus_cases h
    exact keepsUnits_refl s

/-- The perform channel is as it was. -/
def NoPerform (s t : State) : Prop := performTrace t.env.log = performTrace s.env.log

theorem Issued.noPerform {op : BusOp} (h : Issued op s t) : NoPerform s t := by
  obtain ⟨-, hl | ⟨w, hl⟩⟩ := h <;> exact (congrArg performTrace hl).trans rfl

theorem accessStep_noPerform {want : AccessKind} (h : s.accessStep want = .next t) : NoPerform s t := by
  obtain ⟨-, a, wd, k, -, rfl⟩ := accessStep_cases h
  exact (issued_busStep want a wd k s).noPerform

theorem intStep_noPerform {n : Nat} (k : Arch → Arch × Fin (n + 1)) (s : State) : NoPerform s (s.intStep k) := by
  rw [intStep_eq]
  split <;> rfl

theorem next_noPerform {i : Instr} (hi : i = .nextprog ∨ i = .mopNext) (h : exec i s = .next t) : NoPerform s t :=
  (execNext_cases hi h).keeps rfl (by rintro (⟨-, rfl⟩ | ⟨-, rfl⟩) <;> rfl)

/-- Only DISPATCH reaches the perform channel (R50). -/
theorem exec_noPerform {i : Instr} (hi : ∀ a b, i ≠ .dispatch a b) (h : exec i s = .next t) : NoPerform s t := by
  cases i with
  | dispatch a b => exact absurd rfl (hi a b)
  | run n => exact (execRun_cases h).keeps rfl (by rintro (⟨-, rfl⟩ | ⟨-, rfl⟩) <;> rfl)
  | sched pid => exact (execSched_cases h).keeps rfl (by rintro (⟨-, rfl⟩ | ⟨-, -, rfl⟩ | ⟨-, -, rfl⟩) <;> rfl)
  | nextprog => exact next_noPerform (.inl rfl) h
  | mopNext => exact next_noPerform (.inr rfl) h
  | fetchop => exact (execFetchop_cases h).keeps rfl (by rintro (⟨-, rfl⟩ | ⟨-, -, rfl⟩ | ⟨m, -, -, rfl⟩) <;> rfl)
  | dvalue => exact (execDvalue_cases h).keeps rfl (by rintro (⟨-, rfl⟩ | ⟨v, -, rfl⟩) <;> rfl)
  | dadvance => exact (execDadvance_cases h).keeps rfl (by rintro rfl; rfl)
  | dinsert v => exact (execDinsert_cases h).keeps rfl (by rintro (⟨-, rfl⟩ | ⟨-, rfl⟩) <;> rfl)
  | classify iw => exact (execClassify_cases h).keeps rfl (by rintro rfl; rfl)
  | status =>
    obtain ⟨-, rfl⟩ := execStatus_cases h
    rfl
  | busRead => exact accessStep_noPerform (want := .read) h
  | busReadopcode => exact accessStep_noPerform (want := .readOpcode) h
  | busWrite => exact accessStep_noPerform (want := .write) h
  | busReady =>
    obtain ⟨-, -, rfl⟩ := execBusReady_cases h
    exact (issued_spinStep s).noPerform
  | busNone =>
    obtain ⟨-, k, -, rfl⟩ := execBusNone_cases h
    exact intStep_noPerform k s

/-- Settles O53, unit by unit. -/
theorem auxiliaryUnitsAreSeparate : Obligations.AuxiliaryUnitsAreSeparate := fun _ _ _ h =>
  ⟨fun hi => scheduler_keepsDeferred hi h, fun hi => pipeline_keepsScheduler hi h,
    fun hi => dispatchClassifyStatus_keepsUnits hi h, fun hi => exec_noPerform hi h⟩

end Sys2Proof.Machine
end

section
/-! PROOFS of the family 30_encoding (R82 to R96, R112, R118, R153, R183 to R185): the encoder and the decoder are
inverse to each other; then what CLASSIFY, RUN, the spin step and NEXTPROG do when they complete. -/

namespace Sys2Proof

/-! ## The formats (R82, R83): a word is a format's exactly when its fields are -/

section Formats

variable {w : CmdWord} {opc : BitVec 8}

theorem extract_beq_zero (w : CmdWord) (lo n : Nat) :
    (w.extractLsb' lo n == 0) = true ↔ w.toNat / 2 ^ lo % 2 ^ n = 0 := by
  rw [beq_iff_eq, ← BitVec.toNat_inj, toNat_extract]
  rfl

theorem opcOf_eq_iff : opcOf w = opc ↔ w.toNat / 2 ^ 56 % 2 ^ 8 = opc.toNat := by
  rw [opcOf, ← BitVec.toNat_inj, toNat_extract]

/-- Formats R, V and W reserve the same bits. -/
theorem eq_format32_iff {v : BitVec 32} :
    w = format32 opc v ↔ opcOf w = opc ∧ reservedZero .R w = true ∧ arg32 w = v := by
  have hw := w.isLt
  have ho := opc.isLt
  have hv := v.isLt
  rw [opcOf_eq_iff, reservedZero, extract_beq_zero, arg32, ← BitVec.toNat_inj, ← BitVec.toNat_inj, toNat_extract,
    toNat_format32]
  omega

theorem eq_formatN_iff : w = formatN opc ↔ opcOf w = opc ∧ reservedZero .N w = true := by
  have hw := w.isLt
  have ho := opc.isLt
  rw [opcOf_eq_iff, reservedZero, extract_beq_zero, ← BitVec.toNat_inj, toNat_formatN]
  omega

theorem eq_formatP_iff {pid : BitVec 16} :
    w = formatP opc pid ↔ opcOf w = opc ∧ reservedZero .P w = true ∧ argPid w = pid := by
  have hw := w.isLt
  have ho := opc.isLt
  have hv := pid.isLt
  rw [opcOf_eq_iff, reservedZero, extract_beq_zero, argPid, ← BitVec.toNat_inj, ← BitVec.toNat_inj, toNat_extract,
    toNat_formatP]
  omega

theorem eq_formatD_iff {a b : BitVec 12} :
    w = formatD opc a b ↔ opcOf w = opc ∧ reservedZero .D w = true ∧ argStart w = a ∧ argEnd w = b := by
  have hw := w.isLt
  have ho := opc.isLt
  have ha := a.isLt
  have hb := b.isLt
  rw [opcOf_eq_iff, reservedZero, extract_beq_zero, argStart, argEnd, ← BitVec.toNat_inj, ← BitVec.toNat_inj,
    ← BitVec.toNat_inj, toNat_extract, toNat_extract, toNat_formatD]
  omega

end Formats

/-! ## Decoding and encoding (R84, R85, R88) -/

theorem withFormat_of_reserved {f : Format} {w : CmdWord} (hr : reservedZero f w = true) (r : Except Reject Instr) :
    withFormat f w r = r := if_pos hr

theorem withFormat_eq_ok {f : Format} {w : CmdWord} {r : Except Reject Instr} {i : Instr}
    (h : withFormat f w r = .ok i) : reservedZero f w = true ∧ r = .ok i := by
  unfold withFormat at h
  split at h
  · exact ⟨‹_›, h⟩
  · cases h

/-- An arm without a check of its own accepts the words of its format, each for its well-formed instruction. -/
theorem wf_encode_of_withFormat {vw : Nat} {f : Format} {w w' : CmdWord} {i j : Instr}
    (h : withFormat f w (.ok j) = .ok i) (hj : j.wf vw = true ∧ encode j = .cmd w')
    (hw : reservedZero f w = true → w = w') : i.wf vw = true ∧ encode i = .cmd w := by
  obtain ⟨hr, hi⟩ := withFormat_eq_ok h
  cases hi
  rwa [hw hr]

/-- A command word that is accepted has its opcode, zeros in its reserved bits and its operands, so it is the word of
its format. -/
theorem wf_encode_of_decode {vw : Nat} {w : CmdWord} {i : Instr} (h : decode vw w = .ok i) :
    i.wf vw = true ∧ encode i = .cmd w := by
  have hN {opc : BitVec 8} (ho : (opcOf w).toNat = opc.toNat) (hr : reservedZero .N w = true) : w = formatN opc :=
    eq_formatN_iff.2 ⟨BitVec.eq_of_toNat_eq ho, hr⟩
  have h32 {opc : BitVec 8} (ho : (opcOf w).toNat = opc.toNat) (hr : reservedZero .R w = true) :
      w = format32 opc (arg32 w) := eq_format32_iff.2 ⟨BitVec.eq_of_toNat_eq ho, hr, rfl⟩
  unfold decode at h
  split at h
  case h_1 ho => exact wf_encode_of_withFormat h ⟨rfl, rfl⟩ (h32 ho)
  case h_2 ho =>
    split at h
    · cases (withFormat_eq_ok h).2
    · next hpid =>
      exact wf_encode_of_withFormat h ⟨bne_iff_ne.2 hpid, rfl⟩ fun hr =>
        eq_formatP_iff.2 ⟨BitVec.eq_of_toNat_eq ho, hr, rfl⟩
  case h_3 ho => exact wf_encode_of_withFormat h ⟨rfl, rfl⟩ (hN ho)
  case h_4 ho => exact wf_encode_of_withFormat h ⟨rfl, rfl⟩ (hN ho)
  case h_5 ho =>
    exact wf_encode_of_withFormat h ⟨rfl, rfl⟩ fun hr =>
      eq_formatD_iff.2 ⟨BitVec.eq_of_toNat_eq ho, hr, rfl, rfl⟩
  case h_6 ho => exact wf_encode_of_withFormat h ⟨rfl, rfl⟩ (hN ho)
  case h_7 ho => exact wf_encode_of_withFormat h ⟨rfl, rfl⟩ (hN ho)
  case h_8 ho =>
    split at h
    · next hv => exact wf_encode_of_withFormat h ⟨decide_eq_true hv, rfl⟩ (h32 ho)
    · cases (withFormat_eq_ok h).2
  case h_9 ho => exact wf_encode_of_withFormat h ⟨rfl, rfl⟩ (h32 ho)
  case h_10 ho => exact wf_encode_of_withFormat h ⟨rfl, rfl⟩ (hN ho)
  case h_11 => cases h

/-- The word of a format has its opcode, zeros in its reserved bits and its operands, so the opcode's arm of the decoder
answers; what R85 asks of an operand passes the arm's own check. -/
theorem decode_of_encode {vw : Nat} {w : CmdWord} {i : Instr} (hwf : i.wf vw = true) (h : encode i = .cmd w) :
    decode vw w = .ok i := by
  cases i with
  | run n =>
    obtain ⟨ho, hr, rfl⟩ := eq_format32_iff.1 (PortWord.cmd.inj h).symm
    rw [decode, ho]
    exact withFormat_of_reserved hr _
  | sched pid =>
    obtain ⟨ho, hr, rfl⟩ := eq_formatP_iff.1 (PortWord.cmd.inj h).symm
    rw [decode, ho]
    exact (withFormat_of_reserved hr _).trans (if_neg (bne_iff_ne.1 hwf))
  | dispatch first last =>
    obtain ⟨ho, hr, rfl, rfl⟩ := eq_formatD_iff.1 (PortWord.cmd.inj h).symm
    rw [decode, ho]
    exact withFormat_of_reserved hr _
  | dinsert v =>
    obtain ⟨ho, hr, rfl⟩ := eq_format32_iff.1 (PortWord.cmd.inj h).symm
    rw [decode, ho]
    exact (withFormat_of_reserved (f := .V) hr _).trans (if_pos (of_decide_eq_true hwf))
  | classify iw =>
    obtain ⟨ho, hr, rfl⟩ := eq_format32_iff.1 (PortWord.cmd.inj h).symm
    rw [decode, ho]
    exact withFormat_of_reserved (f := .W) hr _
  | nextprog | fetchop | dvalue | dadvance | status =>
    obtain rfl := PortWord.cmd.inj h
    rfl
  | busRead | busReadopcode | busWrite | busReady | busNone | mopNext => cases h

/-- A bus kind code that is accepted is one of the five of R95. -/
theorem wf_encode_of_decodeKind (vw : Nat) {c : KindCode} {i : Instr} (h : decodeKind c = .ok i) :
    i.wf vw = true ∧ encode i = .kind c := by
  have hkind {c' : KindCode} (hc : c.toNat = c'.toNat) : PortWord.kind c' = .kind c :=
    congrArg PortWord.kind (BitVec.eq_of_toNat_eq hc).symm
  unfold decodeKind at h
  split at h
  case h_6 => cases h
  all_goals
    cases h
    exact ⟨rfl, hkind ‹_›⟩

/-- The only micro-op word that is accepted is the sentinel (R92). -/
theorem wf_encode_of_decodeMop (vw : Nat) {m : MopWord} {i : Instr} (h : decodeMop m = .ok i) :
    i.wf vw = true ∧ encode i = .mop m := by
  unfold decodeMop at h
  split at h
  · cases h
    exact ⟨rfl, congrArg PortWord.mop (Eq.symm ‹_›)⟩
  · cases h

/-- Settles O2: a command's word decodes by its opcode's arm; the five kind codes and the sentinel are single words. -/
theorem decodeOfEncodeIsTheInstruction : Obligations.DecodeOfEncodeIsTheInstruction := by
  intro vw i hwf
  cases h : encode i with
  | cmd w => exact decode_of_encode hwf h
  | kind c => cases i <;> cases h <;> rfl
  | mop m =>
    cases i <;> cases h
    rfl

/-- Settles O3: on each interface an accepted word has every bit fixed by its instruction. -/
theorem acceptedWordIsItsEncoding : Obligations.AcceptedWordIsItsEncoding := by
  intro vw pw i h
  cases pw with
  | cmd w => exact wf_encode_of_decode h
  | kind c => exact wf_encode_of_decodeKind vw h
  | mop m => exact wf_encode_of_decodeMop vw h

/-- Settles O1: each word is closed, so the decoder is evaluated on it. -/
theorem specWordsDecode : Obligations.SpecWordsDecode := by
  unfold Obligations.SpecWordsDecode
  decide

end Sys2Proof

namespace Sys2Proof.Machine

variable {s : State}

/-! ## The class codes (R96, R182 to R185) -/

/-- The code of an operation: 0xFF for Undefined and for an operation the code list does not name, else the list's. -/
theorem classCodeOf_cases (p : Params) (op : Op) :
    classCodeOf p op = 0xFF ∧ (op = .undefined ∨ ∀ c, (op, c) ∉ p.classCode) ∨
      (op, classCodeOf p op) ∈ p.classCode := by
  unfold classCodeOf
  split
  · exact .inl ⟨rfl, .inl rfl⟩
  · split
    · rename_i r hr
      have hop : r.1 = op := by simpa using List.find?_some hr
      exact .inr (hop ▸ List.mem_of_find?_eq_some hr)
    · rename_i hr
      exact .inl ⟨rfl, .inr fun c hc => List.find?_eq_none.1 hr _ hc (beq_self_eq_true op)⟩

section ParamsOk

variable {p : Params} (hp : ParamsOk p)
include hp

/-- An operation of the code list has the code the list gives it (R96). -/
theorem classCodeOf_of_mem {op : Op} {c : ClassCode} (h : (op, c) ∈ p.classCode) : classCodeOf p op = c := by
  obtain ⟨-, hinj, hlegal, -⟩ := hp.codes
  obtain ⟨-, hu | hnone⟩ | hmem := classCodeOf_cases p op
  · exact absurd hu (hlegal _ h).1
  · exact absurd h (hnone c)
  · exact (hinj _ hmem _ h).1 rfl

/-- `AND`, and no other operation, has the code 0x00 (R96, R183). -/
theorem classCodeOf_eq_zero_iff (op : Op) : classCodeOf p op = 0 ↔ op = .dp 0 := by
  obtain ⟨-, hinj, -, hand⟩ := hp.codes
  constructor
  · intro h0
    obtain ⟨hff, -⟩ | hmem := classCodeOf_cases p op
    · rw [h0] at hff
      exact absurd hff (by decide)
    · exact (hinj _ hmem _ hand).2 h0
  · rintro rfl
    exact classCodeOf_of_mem hp hand

/-- An operation a pattern names has a code other than 0xFF (R96). -/
theorem classCodeOf_ne_of_pattern {e : Pattern} (he : e ∈ p.decodePatterns) (hne : e.op ≠ .undefined) :
    classCodeOf p e.op ≠ 0xFF := by
  obtain ⟨htotal, -, hlegal, -⟩ := hp.codes
  obtain hu | ⟨⟨op, c⟩, hr, rfl⟩ := htotal e he
  · exact absurd hu hne
  · rw [classCodeOf_of_mem hp hr]
    exact (hlegal _ hr).2

end ParamsOk

/-- A coarse class other than Undefined is the operation of a pattern (R181). -/
theorem exists_pattern_of_coarse {p : Params} {idx : BitVec 8} (h : coarse p idx ≠ .undefined) :
    ∃ e ∈ p.decodePatterns, e.op = coarse p idx := by
  unfold coarse at h ⊢
  split at h
  · rename_i e he
    exact ⟨e, List.mem_of_find?_eq_some he, rfl⟩
  · exact absurd rfl h

/-- A refined class is kept where its refinement holds, and is Undefined elsewhere (R182). -/
theorem classify_refined {p : Params} {iw : BitVec 32} {cubes : List Cube}
    (h : refinement p (coarse p (fieldIndex p.decodeField iw)) = some cubes) :
    classify p iw = if refineHolds cubes iw then coarse p (fieldIndex p.decodeField iw) else .undefined := by
  simp only [classify, h]

/-- Under the mask of the multiply refinement a word is its bits [7:4], in their place. -/
theorem and_multiplyMask (iw : BitVec 32) : iw &&& 0x000000F0#32 = (iw.extractLsb' 4 4).setWidth 32 <<< 4 := by
  have hmask : ∀ i (hi : i < 32), (0x000000F0#32)[i] = decide (4 ≤ i ∧ i < 8) := by decide
  ext i hi
  simp only [BitVec.getElem_and, hmask i hi, BitVec.getElem_shiftLeft, BitVec.getElem_setWidth,
    BitVec.getLsbD_extractLsb']
  grind

/-- The multiply refinement reads bits [7:4] (R184). -/
theorem refineHolds_multiplyRefine (iw : BitVec 32) :
    refineHolds multiplyRefine iw = true ↔ iw.extractLsb' 4 4 = 0b1001 := by
  have hplace : ∀ x : BitVec 4, x.setWidth 32 <<< 4 = (0x00000090 : BitVec 32) ↔ x = 0b1001 := by decide
  rw [← hplace, ← and_multiplyMask]
  simp only [refineHolds, multiplyRefine, List.any_cons, List.any_nil, Bool.or_false, beq_iff_eq, BitVec.ofNat_eq_ofNat]

/-- Settles O38: the class is that of a pattern, so it has the multiply refinement and a legal code. -/
theorem multiplyNeedsItsBits : Obligations.MultiplyNeedsItsBits := by
  intro p iw acc sFlag hp hc
  obtain ⟨e, he, hop⟩ := exists_pattern_of_coarse (p := p) (by rw [hc]; nofun)
  rw [hc] at hop
  have hcode := classCodeOf_ne_of_pattern hp he (by rw [hop]; nofun)
  have href := hp.multiply e he (by rw [hop]; rfl)
  rw [hop] at hcode href
  have hclass := classify_refined (hc ▸ href)
  simp only [hc, refineHolds_multiplyRefine] at hclass
  refine ⟨fun hbits => ?_, fun hbits => ?_⟩
  · rw [hclass, if_pos hbits]
    exact ⟨rfl, hcode⟩
  · rw [hclass, if_neg hbits]
    exact ⟨rfl, rfl⟩

/-! ## CLASSIFY (R185, R212) -/

section Idle

variable (hm : s.mode = .idle) (hf : s.faultCode = 0)
include hm hf

/-- CLASSIFY answers the code, zero-extended. -/
theorem exec_classify (iw : BitVec 32) :
    exec (.classify iw) s =
      .next (s.emit (.resp ((classCodeOf s.params (classify s.params iw)).setWidth 64))) := by
  rw [exec, execClassify, command_open hm hf, respond_eq, okWord_setWidth (by decide)]

/-- CLASSIFY answers 0 exactly for a class whose code is 0. -/
theorem exec_classify_zero_iff (iw : BitVec 32) :
    exec (.classify iw) s = .next (s.emit (.resp 0x0000000000000000)) ↔
      classCodeOf s.params (classify s.params iw) = 0 := by
  rw [exec_classify hm hf]
  constructor
  · intro h
    have hlog := congrArg (fun t : State => t.env.log) (Host.Outcome.next.inj h)
    have hresp := Event.resp.inj (List.cons.inj hlog).1
    bv_omega
  · intro h
    rw [h]
    rfl

/-- RUN n with `n >= 1` (R112). -/
theorem exec_run_grant {n : BitVec 32} (hn : 0 < n.toInt) :
    exec (.run n) s = .next { s with budget := s.budget + n.toInt, mode := .running } := by
  rw [exec, execRun, command_open hm hf, runGrant, if_neg (by omega)]

/-- NEXTPROG and MOP_NEXT with a program current (R153). -/
theorem exec_next_move {i : Instr} (hi : i = .nextprog ∨ i = .mopNext) (hs : s.slotAt s.ridx ≠ 0) :
    exec i s = .next (State.respond 0 { s.setSlot s.ridx 0 with ridx := s.ridx + 1, stepCtr := 0 }) := by
  have hmove : s.moveToNext = State.respond 0 { s.setSlot s.ridx 0 with ridx := s.ridx + 1, stepCtr := 0 } :=
    if_neg hs
  rw [← hmove]
  obtain rfl | rfl := hi <;> exact command_open hm hf

end Idle

/-- Settles O36: the answer is the code of the class, and only the log has changed. -/
theorem classifyAnswersTheCode : Obligations.ClassifyAnswersTheCode := by
  intro s iw hm hf
  refine ⟨_, classCodeOf s.params (classify s.params iw), exec_classify hm hf iw, sameBlock_withEnv s _, rfl, rfl,
    ⟨rfl, fun _ => rfl⟩, fun hu => ?_, fun hp c hc => classCodeOf_of_mem hp hc⟩
  rw [hu]
  rfl

/-- Settles O37: the code 0x00 is that of `AND` alone, and the all-zero word classifies as `AND` (R183). -/
theorem zeroWordIsAnd : Obligations.ZeroWordIsAnd := by
  intro s iw hp hm hf
  have hiff (iw : BitVec 32) := (exec_classify_zero_iff hm hf iw).trans (classCodeOf_eq_zero_iff hp _)
  exact ⟨hiff iw, (hiff 0).2 hp.zeroIsAnd⟩

/-! ## RUN, BUS_READY and NEXTPROG (R112, R118, R153) -/

/-- Settles O16: the grant writes the budget and the mode. -/
theorem runGrantsItsCycles : Obligations.RunGrantsItsCycles := by
  intro s n hm hf hn
  exact ⟨_, exec_run_grant hm hf hn, rfl, rfl, rfl, rfl, rfl, rfl, rfl, ⟨rfl, rfl, rfl, rfl⟩, rfl, rfl, rfl, rfl,
    rfl, fun _ => rfl⟩

/-- A spin step of nonzero cost completes. -/
theorem exec_spin_done (hm : s.mode = .running) (hd : s.due = .spin) (hc : (busAnswer s.env (spinOp s)).cost ≠ 0) :
    exec .busReady s = .next (spinDone s) := by
  simp only [exec, execBusReady, hm, hd, spinStep_eq, if_neg hc]

/-- Settles O25: a Ready operation is no Write, so the handler's memory is the same. -/
theorem spinStepCompletes : Obligations.SpinStepCompletes := by
  intro s hm hd hc
  have hmem : (spinDone s).env.mem = s.env.mem := memAfter_of_not_write (op := spinOp s) nofun
  exact ⟨_, exec_spin_done hm hd hc, rfl, rfl, rfl, rfl, rfl, rfl, hm, ⟨rfl, rfl, rfl, rfl⟩, rfl, rfl,
    ⟨rfl, rfl, rfl, rfl, rfl, rfl, rfl, rfl⟩, rfl, rfl, fun b => congrArg (readByte · b) hmem⟩

/-- Settles O32: the move clears one slot, whose reads `slotAt_setSlot` gives. -/
theorem nextprogMovesOn : Obligations.NextprogMovesOn := by
  intro s i hi hm hf hs
  have hslot (j : BitVec 2) := slotAt_setSlot s s.ridx 0 j
  exact ⟨_, exec_next_move hm hf hi hs, (hslot _).trans (if_pos rfl), fun j hj => (hslot j).trans (if_neg hj),
    BitVec.toNat_add _ _, rfl, rfl, ⟨rfl, rfl, rfl, rfl, rfl, rfl, rfl⟩, rfl, hf, rfl, rfl, rfl, fun _ => rfl⟩

end Sys2Proof.Machine
end

section
/-! PROOFS of the family 40_stepper (R110 to R128): the steps of a RUN, what a RUN costs, how it ends, and when two
courses of RUNs are the same. First what one step of the stepper can do, said once; then one step of the machine; then
the steps of a whole RUN, by induction on their number. -/

namespace Sys2Proof.Machine

variable {s t u : State}

/-! ## The step that is due (R113, R117, R120) -/

theorem due_of_microStep {m : MicroStep s.seq.lastRp} (h : s.microStep = m) : s.due = dueOf s.rdyIn m := by
  rw [State.due, h]

/-- A held read-type micro-step is a spin step. -/
theorem due_spin {kind : AccessKind} {a wd : Nat} {k : Arch → Nat → Arch × Fin (s.seq.lastRp + 1)}
    (h : s.microStep = .bus kind a wd k) (hk : isReadType kind = true) (hr : s.rdyIn = true) : s.due = .spin := by
  rw [due_of_microStep h, dueOf, hk, hr]
  rfl

/-- During a RUN with budget left the step is what the micro-step and the ready line make due. -/
theorem step_of_microStep {m : MicroStep s.seq.lastRp} (hr : NoReset s) (hm : s.mode = .running) (hb : 0 < s.budget)
    (h : s.microStep = m) : step s = exec (instrOfKind (dueOf s.rdyIn m).kind) s.afterSample := by
  rw [← due_of_microStep h, ← State.dueKind, ← afterSample_dueKind]
  exact step_of_liveWork_run hr (liveWork_running_due hm hb)

/-- Settles O5: the ready line decides between an access and a spin step of a read-type micro-step, and of no other. -/
theorem readyLineHoldsOnlyReads : Obligations.ReadyLineHoldsOnlyReads := by
  intro s hr hm hb
  have hstep {m} (h : s.microStep = m) := step_of_microStep hr hm hb h
  refine ⟨fun a wd k h => hstep h, fun k h => hstep h, fun a wd k h => ?_, fun a wd k h => ?_⟩
  · rw [hstep h]
    cases s.rdyIn <;> rfl
  · rw [hstep h]
    cases s.rdyIn <;> rfl

/-! ## What one step of the stepper can do (R113 to R118) -/

/-- The step of the stepper that is due (R113). -/
def State.stepperStep (s : State) : State :=
  match s.due with
  | .access kind addr wdata k => s.busStep kind addr wdata k
  | .spin => s.spinStep
  | .internal k => s.intStep k

theorem stepperStep_access {kind : AccessKind} {a wd : Nat} {k : Arch → Nat → Arch × Fin (s.seq.lastRp + 1)}
    (h : s.due = .access kind a wd k) : s.stepperStep = s.busStep kind a wd k := by
  rw [State.stepperStep, h]

theorem stepperStep_spin (h : s.due = .spin) : s.stepperStep = s.spinStep := by
  rw [State.stepperStep, h]

theorem stepperStep_internal {k : Arch → Arch × Fin (s.seq.lastRp + 1)} (h : s.due = .internal k) :
    s.stepperStep = s.intStep k := by
  rw [State.stepperStep, h]

/-- What holds of each kind of step holds of the step that is due. -/
theorem stepperStep_induct {P : State → Prop} (s : State)
    (access : ∀ kind a wd k, s.due = .access kind a wd k → P (s.busStep kind a wd k))
    (spin : s.due = .spin → P s.spinStep) (internal : ∀ k, s.due = .internal k → P (s.intStep k)) :
    P s.stepperStep := by
  cases hd : s.due with
  | access kind a wd k => exact stepperStep_access hd ▸ access kind a wd k hd
  | spin => exact stepperStep_spin hd ▸ spin hd
  | internal k => exact stepperStep_internal hd ▸ internal k hd

/-- During a RUN the kind that is due runs the stepper's step. -/
theorem exec_stepperStep (hm : s.mode = .running) : exec (instrOfKind s.dueKind) s = .next s.stepperStep :=
  exec_due hm

/-- A bus kind that has a next state is the one that is due during a RUN. -/
theorem exec_instrOfKind_cases {b : BusKind} (h : exec (instrOfKind b) s = .next t) :
    s.mode = .running ∧ s.dueKind = b ∧ t = s.stepperStep := by
  by_cases hp : s.mode = .idle ∨ s.dueKind ≠ b
  · rw [exec_instrOfKind_notDue hp] at h
    cases h
  · obtain ⟨hi, hb⟩ := not_or.1 hp
    obtain rfl := not_not.1 hb
    have hm : s.mode = .running := by cases hm : s.mode <;> [exact absurd hm hi; rfl]
    rw [exec_stepperStep hm] at h
    cases h
    exact ⟨hm, rfl, rfl⟩

/-- An operation was issued and its cost charged (R114). -/
structure Charged (op : BusOp) (s t : State) : Prop where
  cost : (busAnswer s.env op).cost ≠ 0
  env : t.env = issueOp s.env op
  budget : t.budget = s.budget - ((busAnswer s.env op).cost.toNat : Int)
  noneRun : t.noneRun = 0
  mode : t.mode = s.mode
  faultCode : t.faultCode = s.faultCode
  params : t.params = s.params

/-- An internal step was taken and counted (R116). -/
structure Counted (s t : State) : Prop where
  limit : s.noneRun ≠ s.params.noneLimit
  env : t.env = s.env
  budget : t.budget = s.budget
  noneRun : t.noneRun = s.noneRun + 1
  mode : t.mode = s.mode
  faultCode : t.faultCode = s.faultCode
  params : t.params = s.params

/-- The outcomes of a step of the stepper: an operation charged, an internal step counted, or one of its two faults. -/
inductive Stepped (s : State) : State → Prop
  | charged {op : BusOp} {t : State} (h : Charged op s t) : Stepped s t
  | counted {t : State} (h : Counted s t) : Stepped s t
  | costFault (op : BusOp) (h : (busAnswer s.env op).cost = 0) : Stepped s ((s.issue op).raise .costInvalid)
  | limitFault : Stepped s (s.raise .noneLimit)

theorem stepped_busStep {n : Nat} (kind : AccessKind) (a wd : Nat) (k : Arch → Nat → Arch × Fin (n + 1)) (s : State) :
    Stepped s (s.busStep kind a wd k) := by
  rw [busStep_eq]
  split
  next hc => exact .costFault _ hc
  next hc => exact .charged ⟨hc, rfl, rfl, rfl, rfl, rfl, rfl⟩

theorem stepped_spinStep (s : State) : Stepped s s.spinStep := by
  rw [spinStep_eq]
  split
  next hc => exact .costFault _ hc
  next hc => exact .charged ⟨hc, rfl, rfl, rfl, rfl, rfl, rfl⟩

theorem stepped_intStep {n : Nat} (k : Arch → Arch × Fin (n + 1)) (s : State) : Stepped s (s.intStep k) := by
  rw [intStep_eq]
  split
  next => exact .limitFault
  next hl => exact .counted ⟨hl, rfl, rfl, rfl, rfl, rfl, rfl⟩

theorem stepped_stepperStep (s : State) : Stepped s s.stepperStep :=
  stepperStep_induct s (fun kind a wd k _ => stepped_busStep kind a wd k s) (fun _ => stepped_spinStep s)
    fun k _ => stepped_intStep k s

theorem keepsUnits_busStep {n : Nat} (kind : AccessKind) (a wd : Nat) (k : Arch → Nat → Arch × Fin (n + 1))
    (s : State) : KeepsUnits s (s.busStep kind a wd k) := by
  rw [busStep_eq]
  split <;> exact keepsUnits_refl s

theorem keepsUnits_spinStep (s : State) : KeepsUnits s s.spinStep := by
  rw [spinStep_eq]
  split <;> exact keepsUnits_refl s

theorem keepsUnits_intStep {n : Nat} (k : Arch → Arch × Fin (n + 1)) (s : State) : KeepsUnits s (s.intStep k) := by
  rw [intStep_eq]
  split <;> exact keepsUnits_refl s

theorem keepsUnits_stepperStep (s : State) : KeepsUnits s s.stepperStep :=
  stepperStep_induct s (fun kind a wd k _ => keepsUnits_busStep kind a wd k s) (fun _ => keepsUnits_spinStep s)
    fun k _ => keepsUnits_intStep k s

theorem sameBuild_stepperStep (s : State) : SameBuild s s.stepperStep :=
  stepperStep_induct s (fun kind a wd k _ => sameBuild_busStep kind a wd k s) (fun _ => sameBuild_spinStep s)
    fun k _ => sameBuild_intStep k s

theorem keepsUnits_run {n : BitVec 32} (h : exec (.run n) s = .next t) : KeepsUnits s t :=
  (execRun_cases h).keeps (keepsUnits_refl s) (by rintro (⟨-, rfl⟩ | ⟨-, rfl⟩) <;> exact keepsUnits_refl s)

theorem run_notKind (n : BitVec 32) (b : BusKind) : Instr.run n ≠ instrOfKind b := by cases b <;> nofun

/-- Settles O29: RUN is a command, and a bus kind with a next state is the stepper's step. -/
theorem stepperLeavesTheOtherUnits : Obligations.StepperLeavesTheOtherUnits := by
  rintro s t i (⟨n, rfl⟩ | ⟨b, rfl⟩) h
  · obtain ⟨hs, hd, hdraws⟩ := keepsUnits_run h
    exact ⟨hs, hd, exec_sameBuild (run_notKind n) h, hdraws⟩
  · obtain ⟨-, -, rfl⟩ := exec_instrOfKind_cases h
    obtain ⟨hs, hd, hdraws⟩ := keepsUnits_stepperStep s
    exact ⟨hs, hd, sameBuild_stepperStep s, hdraws⟩

/-- Settles O26: below the limit the internal step completes. -/
theorem internalStepCompletes : Obligations.InternalStepCompletes := by
  intro s k hm hd hl
  have hexec : exec .busNone s = .next (intDone k s) := by
    simp only [exec, execBusNone, hm, hd, intStep_eq, if_neg hl]
  exact ⟨_, hexec, rfl, rfl, rfl, rfl, rfl, rfl, hm, ⟨rfl, rfl, rfl, rfl⟩, rfl, rfl, rfl, rfl, rfl, fun _ => rfl⟩

/-! ## The command RUN (R112, R124) -/

/-- RUN n with `n <= 0` only answers (R124). -/
theorem exec_run_noop {n : BitVec 32} (hm : s.mode = .idle) (hf : s.faultCode = 0) (hn : n.toInt ≤ 0) :
    exec (.run n) s = .next (s.respond 0) := by
  rw [exec, execRun, command_open hm hf, runGrant, if_pos hn]

/-- Settles O17: the answer is all that RUN n does. -/
theorem runWithoutCyclesIsNoOp : Obligations.RunWithoutCyclesIsNoOp := by
  intro s n hm hf hn
  exact ⟨_, exec_run_noop hm hf hn, sameBlock_withEnv s _, rfl, rfl, rfl, fun _ => rfl⟩

/-! ## One step of the machine, by its mode (R14, R113) -/

theorem step_running (hr : NoReset s) (hm : s.mode = .running) (hb : 0 < s.budget) :
    step s = .next s.afterSample.stepperStep :=
  (step_of_liveWork_run hr (liveWork_running_due hm hb)).trans (exec_stepperStep hm)

theorem step_runEnd (hr : NoReset s) (hm : s.mode = .running) (hb : s.budget ≤ 0) :
    step s = .next s.afterSample.finishRun :=
  step_of_liveWork_done hr (liveWork_running_end hm (not_lt.2 hb))

theorem step_idleEmpty (hr : NoReset s) (hm : s.mode = .idle) (hp : s.env.pending = []) :
    step s = .next s.afterSample :=
  step_of_liveWork_done hr (liveWork_idle_empty hm hp)

/-- The state once a RUN n with `n >= 1` is taken (R112). -/
def grantDone (n : BitVec 32) (w : CmdWord) (rest : List Input) (s : State) : State :=
  { s with
    mode := .running
    budget := s.budget + n.toInt
    env := { s.env with pending := rest, rst := s.env.rst.tail, log := .cmd w :: s.env.log } }

/-- The state once a RUN n with `n <= 0` is taken and answered (R124). -/
def noopDone (w : CmdWord) (rest : List Input) (s : State) : State :=
  { s with
    env := { s.env with
      pending := rest, rst := s.env.rst.tail, log := .resp (okWord 0) :: .cmd w :: s.env.log } }

theorem noopDone_eq (w : CmdWord) (rest : List Input) (s : State) :
    noopDone w rest s = (s.afterSample.takeCmd w rest).respond 0 := by
  simp only [noopDone, State.respond, State.takeCmd, State.emit, State.withPending, State.afterSample, State.withRst]

theorem grantDone_eq (n : BitVec 32) (w : CmdWord) (rest : List Input) (s : State) :
    grantDone n w rest s =
      { s.afterSample.takeCmd w rest with
        budget := (s.afterSample.takeCmd w rest).budget + n.toInt, mode := .running } := by
  simp only [grantDone, State.takeCmd, State.emit, State.withPending, State.afterSample, State.withRst]

section TakeRun

variable {w : CmdWord} {rest : List Input} {n : BitVec 32} (hr : NoReset s) (hm : s.mode = .idle)
  (hf : s.faultCode = 0) (hp : s.env.pending = .cmd w :: rest) (hd : decode s.params.deferVW w = .ok (.run n))
include hr hm hf hp hd

theorem step_grant (hn : 0 < n.toInt) : step s = .next (grantDone n w rest s) := by
  have hm' : (s.afterSample.takeCmd w rest).mode = .idle := hm
  have hf' : (s.afterSample.takeCmd w rest).faultCode = 0 := hf
  rw [step_of_liveWork_run hr (liveWork_cmd_ok hm hp hd), exec_run_grant hm' hf' hn, grantDone_eq]

theorem step_noop (hn : n.toInt ≤ 0) : step s = .next (noopDone w rest s) := by
  have hm' : (s.afterSample.takeCmd w rest).mode = .idle := hm
  have hf' : (s.afterSample.takeCmd w rest).faultCode = 0 := hf
  rw [step_of_liveWork_run hr (liveWork_cmd_ok hm hp hd), exec_run_noop hm' hf' hn, noopDone_eq]

end TakeRun

/-! ## Flush, costs and grants of one step (R114, R125) -/

theorem flushCount_stepped (h : Stepped s t) : flushCount t.env.log = flushCount s.env.log := by
  cases h with
  | charged h => rw [h.env, issueOp, flushCount_bus]
  | counted h => rw [h.env]
  | costFault op hc => simp
  | limitFault => simp

@[simp] theorem busCost_bus (op : BusOp) (ans : BusAnswer) (l : List Event) :
    busCost (.bus op ans :: l) = ans.cost.toNat + busCost l := List.sum_cons

theorem busCost_congr {l m : List Event} (h : busTrace l = busTrace m) : busCost l = busCost m := by
  rw [busCost, busCost, h]

/-- What a step charges, it takes off the budget (R114). -/
theorem busCost_stepped (h : Stepped s t) : busCost t.env.log + t.budget = busCost s.env.log + s.budget := by
  cases h with
  | charged h =>
    rw [h.env, issueOp, busCost_bus, h.budget]
    omega
  | counted h => rw [h.env, h.budget]
  | costFault op hc =>
    have hcost : busCost ((s.issue op).raise .costInvalid).env.log = 0 + busCost s.env.log :=
      (busCost_bus op _ _).trans (by rw [hc]; rfl)
    rw [hcost, Int.zero_add]
    rfl
  | limitFault => rfl

/-- What a RUN n grants while the fault code `code` is latched: `n >= 1` cycles if it is 0, else none (R112, R214). -/
def acceptedGrant (code : BitVec 8) (n : BitVec 32) : Int := if code = 0 ∧ 0 < n.toInt then n.toInt else 0

/-- Only a RUN command that an idle block takes next grants anything (R112). -/
theorem grantNext_eq_zero
    (h : ∀ w rest n, s.mode = .idle → s.env.pending = .cmd w :: rest → decode s.params.deferVW w ≠ .ok (.run n)) :
    grantNext s = 0 := by
  unfold grantNext
  split
  next w rest hm hp =>
    split
    next n hd => exact absurd hd (h w rest n hm hp)
    next => rfl
  next => rfl

theorem grantNext_run {w : CmdWord} {rest : List Input} {n : BitVec 32} (hm : s.mode = .idle)
    (hp : s.env.pending = .cmd w :: rest) (hd : decode s.params.deferVW w = .ok (.run n)) :
    grantNext s = acceptedGrant s.faultCode n := by
  simp only [grantNext, hm, hp, hd, runGrant]
  rfl

/-- A step of an idle block issues no operation and no flush, and its budget grows by the grant it accepts. -/
structure GrantStep (s t : State) : Prop where
  trace : busTrace t.env.log = busTrace s.env.log
  flush : flushCount t.env.log = flushCount s.env.log
  budget : t.budget = s.budget + grantNext s

/-- A step that grants nothing and logs only what is no operation and no flush. -/
theorem grantStep_of_log {evs : List Event} (hl : t.env.log = evs ++ s.env.log) (ht : busTrace evs = [])
    (hf : flushCount evs = 0) (hb : t.budget = s.budget) (hg : grantNext s = 0) : GrantStep s t :=
  ⟨by rw [hl, busTrace_append, ht, List.nil_append], by rw [hl, flushCount_append, hf, Nat.zero_add],
    by rw [hb, hg, Int.add_zero]⟩

theorem grantNext_of_no_cmd (hp : ∀ w rest, s.env.pending ≠ .cmd w :: rest) : grantNext s = 0 :=
  grantNext_eq_zero fun w rest _ _ h => absurd h (hp w rest)

/-- A step that takes no command and logs nothing. -/
theorem grantStep_quiet (hp : ∀ w rest, s.env.pending ≠ .cmd w :: rest) (hl : t.env.log = s.env.log)
    (hb : t.budget = s.budget) : GrantStep s t :=
  grantStep_of_log (evs := []) hl rfl rfl hb (grantNext_of_no_cmd hp)

/-- RUN's budget is the old one and the grant. -/
theorem execRun_budget {n : BitVec 32} (h : exec (.run n) s = .next t) :
    t.budget = s.budget + acceptedGrant s.faultCode n := by
  unfold acceptedGrant
  obtain ⟨-, ⟨hf, rfl⟩ | ⟨hf, ⟨hn, rfl⟩ | ⟨hn, rfl⟩⟩⟩ := execRun_cases h
  · rw [if_neg (fun hg => hf hg.1), Int.add_zero]
    rfl
  · rw [if_neg (fun hg => not_lt.2 hn hg.2), Int.add_zero]
    rfl
  · rw [if_pos ⟨hf, hn⟩]

/-- A command other than RUN leaves the budget. -/
theorem exec_budget {i : Instr} (hi : ∀ b, i ≠ instrOfKind b) (hrun : ∀ n, i ≠ .run n) (h : exec i s = .next t) :
    t.budget = s.budget := by
  obtain ⟨-, -, -, -, ⟨-, hb⟩ | ⟨n, hn, -⟩⟩ := exec_commandFrame hi h
  · exact hb
  · exact absurd hn (hrun n)

theorem grantStep_command {w : CmdWord} {rest : List Input} {i : Instr} (hm : s.mode = .idle)
    (hp : s.env.pending = .cmd w :: rest) (hd : decode s.params.deferVW w = .ok i)
    (h : exec i (s.afterSample.takeCmd w rest) = .next t) : GrantStep s t := by
  obtain ⟨-, hframe⟩ := exec_commandFrame (decode_notKind hd) h
  obtain ⟨htrace, hflush⟩ := commandFrame_log hframe
  refine ⟨htrace, hflush.trans (flushCount_cmd w _), ?_⟩
  by_cases hrun : ∃ n, i = .run n
  · obtain ⟨n, rfl⟩ := hrun
    have hb := execRun_budget h
    rwa [grantNext_run hm hp hd]
  · have hne : ∀ n, i ≠ .run n := fun n e => hrun ⟨n, e⟩
    have hb := exec_budget (decode_notKind hd) hne h
    rwa [grantNext_eq_zero fun w' rest' n _ hp' hd' => ?_, Int.add_zero]
    cases hp.symm.trans hp'
    exact hne n (Except.ok.inj (hd.symm.trans hd'))

theorem rejectWord_log (s : State) :
    ∃ w, s.rejectWord.env.log = .resp w :: s.env.log ∧ s.rejectWord.budget = s.budget := by
  unfold State.rejectWord
  split <;> exact ⟨_, rfl, rfl⟩

theorem grantStep_rejectWord {w : CmdWord} {rest : List Input} (hg : grantNext s = 0) :
    GrantStep s (s.afterSample.takeCmd w rest).rejectWord := by
  obtain ⟨v, hl, hb⟩ := rejectWord_log (s.afterSample.takeCmd w rest)
  exact grantStep_of_log (evs := [.resp v, .cmd w]) hl rfl ((flushCount_resp v _).trans (flushCount_cmd w [])) hb hg

theorem grantStep_idle (hr : NoReset s) (hm : s.mode = .idle) (h : step s = .next t) : GrantStep s t := by
  obtain ⟨hr', -⟩ | ⟨-, ⟨hm', -⟩ | ⟨hm', -⟩ | ⟨-, hp, rfl⟩ | ⟨w, rest, i, -, hp, hd, he⟩ |
    ⟨w, rest, e, -, hp, hd, rfl⟩ | ⟨m, rest, i, -, hp, hd, he⟩ | ⟨m, rest, e, -, hp, -, rfl⟩ | ⟨pid, ws, rest, -, hp, rfl⟩⟩ := step_cases h
  · exact absurd hr' hr
  · exact nomatch hm.symm.trans hm'
  · exact nomatch hm.symm.trans hm'
  · exact grantStep_quiet (by simp [hp]) rfl rfl
  · exact grantStep_command hm hp hd he
  · refine grantStep_rejectWord (grantNext_eq_zero fun w' rest' n _ hp' hd' => ?_)
    cases hp.symm.trans hp'
    exact nomatch hd.symm.trans hd'
  · obtain rfl := decodeMop_ok hd
    obtain ⟨-, hframe⟩ := exec_commandFrame mopNext_notKind he
    obtain ⟨htrace, hflush⟩ := commandFrame_log hframe
    have hb := exec_budget mopNext_notKind nofun he
    have hg : grantNext s = 0 := grantNext_of_no_cmd (by simp [hp])
    exact ⟨htrace, hflush, by rw [hg, Int.add_zero, hb]; rfl⟩
  · exact grantStep_quiet (by simp [hp]) rfl rfl
  · exact grantStep_quiet (by simp [hp]) rfl rfl

/-- Settles O18: the normal end is one transition, and every other case of the step logs no flush. -/
theorem flushExactlyAtTheNormalEnd : Obligations.FlushExactlyAtTheNormalEnd := by
  intro s t h
  refine ⟨fun ⟨hr, hm, hb⟩ => ?_, fun hne => ?_⟩
  · rw [step_runEnd hr hm hb] at h
    cases h
    exact ⟨rfl, ⟨rfl, rfl, rfl, rfl, rfl, rfl⟩, ⟨rfl, rfl, rfl, rfl⟩, rfl, rfl, rfl⟩
  · by_cases hr : NoReset s
    · cases hm : s.mode with
      | idle => exact (grantStep_idle hr hm h).flush
      | running =>
        have hb : 0 < s.budget := not_le.1 fun hb => hne ⟨hr, hm, hb⟩
        rw [step_running hr hm hb] at h
        cases h
        exact flushCount_stepped (s := s.afterSample) (stepped_stepperStep _)
    · rw [step_of_done (work_reset (not_not.1 hr))] at h
      cases h
      exact flushCount_rst _

theorem grantNext_running (hm : s.mode = .running) : grantNext s = 0 :=
  grantNext_eq_zero fun _ _ _ hi => nomatch hm.symm.trans hi

/-- Without a reset, the costs and the budget grow together by what is granted (R114). -/
theorem busCost_step (hr : NoReset s) (h : step s = .next t) :
    busCost t.env.log + t.budget = busCost s.env.log + s.budget + grantNext s := by
  cases hm : s.mode with
  | idle =>
    have hg := grantStep_idle hr hm h
    rw [busCost_congr hg.trace, hg.budget]
    omega
  | running =>
    rw [grantNext_running hm, Int.add_zero]
    by_cases hb : 0 < s.budget
    · rw [step_running hr hm hb] at h
      cases h
      exact busCost_stepped (s := s.afterSample) (stepped_stepperStep _)
    · rw [step_runEnd hr hm (not_lt.1 hb)] at h
      cases h
      rfl

/-! ## Several steps -/

/-- Each step uses up one sample of the reset line. -/
theorem step_rst (h : step s = .next t) : t.env.rst = s.env.rst.tail := by
  obtain ⟨-, -, hr, -⟩ | ⟨-, ⟨rest, -, -, hr, -⟩ | ⟨pid, ws, rest, rfl⟩⟩ := step_sameBuild h
  · exact hr
  · exact hr
  · rfl

theorem RstLow.noReset (h : RstLow s) : NoReset s := fun hr => nomatch h true (List.mem_of_mem_head? hr)

theorem RstLow.step (h : RstLow s) (hst : step s = .next t) : RstLow t := by
  intro b hb
  rw [step_rst hst] at hb
  exact h b (List.mem_of_mem_tail hb)

theorem rstLow_of_nil (h : s.env.rst = []) : RstLow s := by
  intro b hb
  rw [h] at hb
  cases hb

theorem coreRun_succ {M : Host.Core} {s u : M.State} (h : M.step s = .next u) (k : Nat) :
    M.run (k + 1) s = M.run k u := by
  rw [Host.Core.run, h]

theorem runSteps_succ (h : step s = .next u) (k : Nat) : runSteps (k + 1) s = runSteps k u :=
  coreRun_succ (M := Sys2Proof.core) h k

theorem runSteps_one (h : step s = .next t) : runSteps 1 s = .next t := runSteps_succ h 0

theorem runSteps_succ_cases {k : Nat} (h : runSteps (k + 1) s = .next t) :
    ∃ u, step s = .next u ∧ runSteps k u = .next t := by
  obtain ⟨u, hu⟩ := noStepStops s
  exact ⟨u, hu, (runSteps_succ hu k).symm.trans h⟩

theorem grantedIn_succ (h : step s = .next u) (k : Nat) : grantedIn (k + 1) s = grantNext s + grantedIn k u := by
  simp only [grantedIn, h]

/-- An idle block without an input keeps everything but its reset samples (R233). -/
theorem runSteps_idleEmpty {k : Nat} (hm : s.mode = .idle) (hp : s.env.pending = []) (hlow : RstLow s)
    (h : runSteps k s = .next t) : ∃ r, t = s.withRst r := by
  induction k generalizing s with
  | zero =>
    cases h
    exact ⟨t.env.rst, rfl⟩
  | succ k ih =>
    have hst := step_idleEmpty hlow.noReset hm hp
    rw [runSteps_succ hst] at h
    exact ih (s := s.afterSample) hm hp (hlow.step hst) h

/-- Settles O20, by induction on the steps. -/
theorem costsEqualGrants : Obligations.CostsEqualGrants := by
  intro k
  induction k with
  | zero =>
    intro s t _ h
    cases h
    rw [grantedIn, Int.sub_self, Int.sub_self, Int.sub_zero]
  | succ k ih =>
    intro s t hlow h
    obtain ⟨u, hu, hk⟩ := runSteps_succ_cases h
    have hstep := busCost_step hlow.noReset hu
    have hrest := ih u t (hlow.step hu) hk
    rw [grantedIn_succ hu]
    omega

/-! ## Every RUN ends (R123) -/

theorem cost_pos {c : Cost} (h : c ≠ 0) : 1 ≤ c.toNat := by bv_omega

/-- How many more steps a RUN can take: `NONE_LIMIT + 1` for each cycle of its budget, less the internal steps taken
since the last operation. -/
def runMeasure (s : State) : Nat := (s.params.noneLimit + 1) * s.budget.toNat - s.noneRun

theorem runMeasure_charged {op : BusOp} (h : Charged op s t) (hb : 0 < s.budget)
    (hn : s.noneRun ≤ s.params.noneLimit) : runMeasure t < runMeasure s := by
  have hc := cost_pos h.cost
  obtain ⟨b, hsb⟩ : ∃ b, s.budget.toNat = b + 1 := ⟨s.budget.toNat - 1, by omega⟩
  have htb : t.budget.toNat ≤ b := by
    rw [h.budget]
    omega
  have hmul := Nat.mul_le_mul_left (s.params.noneLimit + 1) htb
  rw [runMeasure, runMeasure, h.params, h.noneRun, hsb, Nat.mul_succ]
  omega

theorem runMeasure_counted (h : Counted s t) (hb : 0 < s.budget) (hn : s.noneRun ≤ s.params.noneLimit) :
    runMeasure t < runMeasure s := by
  have hmul := Nat.mul_le_mul_left (s.params.noneLimit + 1) (show 1 ≤ s.budget.toNat by omega)
  rw [runMeasure, runMeasure, h.params, h.noneRun, h.budget]
  omega

/-- The two ways a RUN in progress in `s` ends without a reset (R123). -/
def RunEnd (s t : State) : Prop :=
  t.mode = .idle ∧
    ((t.faultCode = 0 ∧ t.budget ≤ 0 ∧ flushCount t.env.log = flushCount s.env.log + 1 ∧
        ∃ l, t.env.log = .resp 0x0000000000000000 :: .flush :: l) ∨
      ((t.faultCode = FaultCode.costInvalid.code ∨ t.faultCode = FaultCode.noneLimit.code) ∧
        flushCount t.env.log = flushCount s.env.log ∧
        t.env.log.head? = some (.resp (errWord t.faultCode))))

theorem RunEnd.of_flushCount (h : RunEnd u t) (hf : flushCount u.env.log = flushCount s.env.log) : RunEnd s t := by
  rwa [RunEnd, ← hf]

theorem runEnd_finishRun (hf : s.faultCode = 0) (hb : s.budget ≤ 0) : RunEnd s s.finishRun :=
  ⟨rfl, .inl ⟨hf, hb, by simp, _, rfl⟩⟩

/-- A RUN ends within its measure and one step more: a completed step makes the measure smaller. -/
theorem runSteps_runEnd (hm : s.mode = .running) (hf : s.faultCode = 0) (hn : s.noneRun ≤ s.params.noneLimit)
    (hlow : RstLow s) : ∃ k t, k ≤ runMeasure s + 1 ∧ runSteps k s = .next t ∧ RunEnd s t := by
  induction hd : runMeasure s using Nat.strong_induction_on generalizing s with
  | _ d ih =>
    subst hd
    by_cases hb : 0 < s.budget
    · have hst := step_running hlow.noReset hm hb
      have hnext := stepped_stepperStep s.afterSample
      have hflush := flushCount_stepped hnext
      generalize s.afterSample.stepperStep = v at hst hnext hflush
      have goesOn (hlt : runMeasure v < runMeasure s) (hmv : v.mode = .running) (hfv : v.faultCode = 0)
          (hnv : v.noneRun ≤ v.params.noneLimit) :
          ∃ k t, k ≤ runMeasure s + 1 ∧ runSteps k s = .next t ∧ RunEnd s t := by
        obtain ⟨k, t, hk, hrun, hend⟩ := ih _ hlt hmv hfv hnv (hlow.step hst) rfl
        exact ⟨k + 1, t, by omega, (runSteps_succ hst k).trans hrun, hend.of_flushCount hflush⟩
      cases hnext with
      | charged h =>
        exact goesOn (runMeasure_charged (s := s.afterSample) h hb hn) (h.mode.trans hm) (h.faultCode.trans hf)
          (h.noneRun ▸ Nat.zero_le _)
      | counted h =>
        refine goesOn (runMeasure_counted (s := s.afterSample) h hb hn) (h.mode.trans hm) (h.faultCode.trans hf) ?_
        rw [h.noneRun, h.params]
        exact Nat.lt_of_le_of_ne hn h.limit
      | costFault op _ =>
        exact ⟨1, _, Nat.le_add_left _ _, runSteps_one hst, rfl, .inr ⟨.inl rfl, hflush, rfl⟩⟩
      | limitFault =>
        exact ⟨1, _, Nat.le_add_left _ _, runSteps_one hst, rfl, .inr ⟨.inr rfl, hflush, rfl⟩⟩
    · exact ⟨1, _, Nat.le_add_left _ _, runSteps_one (step_runEnd hlow.noReset hm (not_lt.1 hb)),
        runEnd_finishRun (s := s.afterSample) hf (not_lt.1 hb)⟩

/-- Settles O19: the measure is at most `NONE_LIMIT + 1` for each cycle. -/
theorem everyRunEnds : Obligations.EveryRunEnds := by
  intro s hm hf hn hlow
  obtain ⟨k, t, hk, hrun, hend⟩ := runSteps_runEnd hm hf hn hlow
  exact ⟨k, t, hk.trans (Nat.succ_le_succ (Nat.sub_le _ _)), hrun, hend⟩

/-! ## The budget bound (R127) -/

/-- What a RUN in progress in `s` has issued and left when it is over in `t` (R127). -/
def BudgetBound (s t : State) : Prop :=
  ∃ ops, busTrace t.env.log = ops ++ busTrace s.env.log ∧ (ops.length : Int) ≤ max 0 s.budget ∧
    (t.faultCode = 0 → -(2 ^ 16 - 2) ≤ t.budget ∧ t.budget ≤ 0 ∧
      ((∀ x ∈ ops, x.2.cost = 1) → (ops.length : Int) = max 0 s.budget ∧ t.budget = min s.budget 0))

/-- An operation starts with a cycle of budget left and costs at least one. -/
theorem BudgetBound.charged {op : BusOp} (h : BudgetBound u t) (hc : Charged op s u) (hb : 0 < s.budget) :
    BudgetBound s t := by
  obtain ⟨ops, htrace, hlen, hend⟩ := h
  have hcost := cost_pos hc.cost
  have hbud := hc.budget
  refine ⟨ops ++ [(op, busAnswer s.env op)], ?_, ?_, fun hf => ?_⟩
  · rw [htrace, hc.env, List.append_assoc]
    rfl
  · rw [List.length_append, List.length_singleton]
    omega
  · obtain ⟨hlow, hhigh, hone⟩ := hend hf
    refine ⟨hlow, hhigh, fun hall => ?_⟩
    obtain ⟨hn, hleft⟩ := hone fun x hx => hall x (List.mem_append_left _ hx)
    have hc1 : (busAnswer s.env op).cost.toNat = 1 :=
      congrArg BitVec.toNat (hall (op, busAnswer s.env op) (List.mem_append_right _ (List.mem_singleton.2 rfl)))
    rw [List.length_append, List.length_singleton]
    omega

theorem BudgetBound.counted (h : BudgetBound u t) (hc : Counted s u) : BudgetBound s t := by
  rwa [BudgetBound, hc.env, hc.budget] at h

/-- A fault issues at most the operation it charges nothing for. -/
theorem budgetBound_of_fault {ops : List (BusOp × BusAnswer)} (ht : busTrace t.env.log = ops ++ busTrace s.env.log)
    (hlen : ops.length ≤ 1) (hb : 0 < s.budget) (hf : t.faultCode ≠ 0) : BudgetBound s t :=
  ⟨ops, ht, by omega, fun h0 => absurd h0 hf⟩

theorem budgetBound_of_end (ht : busTrace t.env.log = busTrace s.env.log) (hbt : t.budget = s.budget)
    (hlow : -(2 ^ 16 - 2) ≤ s.budget) (hb : s.budget ≤ 0) : BudgetBound s t := by
  refine ⟨[], ht, Int.le_max_left _ _, fun _ => ⟨hbt ▸ hlow, hbt ▸ hb, fun _ => ⟨?_, ?_⟩⟩⟩
  · exact (max_eq_left hb).symm
  · exact hbt.trans (min_eq_left hb).symm

/-- By induction on the steps; once the RUN is over, the block without an input holds its state. -/
theorem runSteps_budgetBound {k : Nat} (hm : s.mode = .running) (hp : s.env.pending = []) (hlow : RstLow s)
    (hb : -(2 ^ 16 - 2) ≤ s.budget) (h : runSteps k s = .next t) (ht : t.mode = .idle) : BudgetBound s t := by
  induction k generalizing s with
  | zero =>
    cases h
    exact nomatch hm.symm.trans ht
  | succ k ih =>
    by_cases hpos : 0 < s.budget
    · have hst := step_running hlow.noReset hm hpos
      have hnext := stepped_stepperStep s.afterSample
      have hpv := (runTakesNoInput _ _ hm hst).1.trans hp
      generalize s.afterSample.stepperStep = v at hst hnext hpv
      have hlowv := hlow.step hst
      rw [runSteps_succ hst] at h
      cases hnext with
      | @charged op _ hc =>
        have hcost := (busAnswer s.afterSample.env op).cost.isLt
        have hbud : v.budget = s.budget - _ := hc.budget
        exact (ih (hc.mode.trans hm) hpv hlowv (by omega) h).charged (s := s.afterSample) hc hpos
      | counted hc =>
        have hbud : v.budget = s.budget := hc.budget
        exact (ih (hc.mode.trans hm) hpv hlowv (hbud ▸ hb) h).counted (s := s.afterSample) hc
      | costFault op _ =>
        obtain ⟨r, rfl⟩ := runSteps_idleEmpty rfl hpv hlowv h
        exact budgetBound_of_fault (ops := [_]) rfl (Nat.le_refl 1) hpos (code_range .costInvalid).1
      | limitFault =>
        obtain ⟨r, rfl⟩ := runSteps_idleEmpty rfl hpv hlowv h
        exact budgetBound_of_fault (ops := []) rfl (Nat.zero_le 1) hpos (code_range .noneLimit).1
    · have hst := step_runEnd hlow.noReset hm (not_lt.1 hpos)
      have hlowv := hlow.step hst
      rw [runSteps_succ hst] at h
      obtain ⟨r, rfl⟩ := runSteps_idleEmpty (s := s.afterSample.finishRun) rfl hp hlowv h
      exact budgetBound_of_end rfl rfl hb (not_lt.1 hpos)

/-- Settles O21: the first step grants the cycles, and the rest is the RUN from there. -/
theorem runKeepsItsBudgetBound : Obligations.RunKeepsItsBudgetBound := by
  intro k s t w n hm hf hb hb16 hlow hp hd hn h htm htp
  cases k with
  | zero =>
    cases h
    exact nomatch hp.symm.trans htp
  | succ k =>
    have hst := step_grant hlow.noReset hm hf hp hd hn
    have hlowu := hlow.step hst
    rw [runSteps_succ hst] at h
    exact runSteps_budgetBound rfl rfl hlowu (show -(2 ^ 16 - 2) ≤ s.budget + n.toInt by omega) h htm

/-! ## The ready-line hold (R128) -/

/-- What `N` Ready operations and the end of the RUN leave of `s`. -/
structure Held (N : Nat) (s t : State) : Prop where
  mode : t.mode = .idle
  budget : t.budget = 0
  inSpin : s.inSpin = true ∨ 0 < N → t.inSpin = true
  rp : t.rp = s.rp
  arch : t.arch = s.arch
  lastAddr : t.lastAddr = s.lastAddr
  faultCode : t.faultCode = s.faultCode
  trace : (busTrace t.env.log).map Prod.fst = List.replicate N (spinOp s) ++ (busTrace s.env.log).map Prod.fst
  flush : flushCount t.env.log = flushCount s.env.log + 1

theorem held_finishRun (hb : s.budget = 0) : Held 0 s s.finishRun where
  mode := rfl
  budget := hb
  inSpin h := h.resolve_right (Nat.lt_irrefl 0)
  rp := rfl
  arch := rfl
  lastAddr := rfl
  faultCode := rfl
  trace := rfl
  flush := by simp

/-- A spin step leaves the position, so the spins after it are at the same address. -/
theorem Held.spin {N : Nat} (h : Held N (spinDone s) t) : Held (N + 1) s t where
  mode := h.mode
  budget := h.budget
  inSpin _ := h.inSpin (.inl rfl)
  rp := h.rp
  arch := h.arch
  lastAddr := h.lastAddr
  faultCode := h.faultCode
  trace := by
    rw [h.trace, List.replicate_succ', List.append_assoc]
    rfl
  flush := h.flush.trans (congrArg (· + 1) (flushCount_bus _ _ _))

/-- By induction on the cycles of budget: each is one Ready operation of cost 1, after which the same micro-step is
held again. -/
theorem runSteps_held {N : Nat} (hm : s.mode = .running) (hb : s.budget = N) (hr : s.env.rst = [])
    (hmicro : ∃ kind a wd k, s.microStep = .bus kind a wd k ∧ isReadType kind = true)
    (hans : ∀ j, j < N → rdyLine (spinsFrom s.lastAddr j s.env) = true ∧
      (busAnswer (spinsFrom s.lastAddr j s.env) (spinOp s)).cost = 1) :
    ∃ t, runSteps (N + 1) s = .next t ∧ Held N s t := by
  have hlow := rstLow_of_nil hr
  induction N generalizing s with
  | zero =>
    have hst := step_runEnd hlow.noReset hm (Int.le_of_eq hb)
    rw [afterSample_of_low hr] at hst
    exact ⟨_, runSteps_one hst, held_finishRun hb⟩
  | succ N ih =>
    obtain ⟨kind, a, wd, k, hs, hk⟩ := hmicro
    obtain ⟨hrdy, hcost⟩ := hans 0 (Nat.succ_pos N)
    have hcost : (busAnswer s.env (spinOp s)).cost = 1 := hcost
    have hst := step_running hlow.noReset hm (by omega)
    rw [afterSample_of_low hr, stepperStep_spin (due_spin hs hk hrdy), spinStep_eq, if_neg (by simp [hcost])] at hst
    have hbud : (spinDone s).budget = N := by
      show s.budget - ((busAnswer s.env (spinOp s)).cost.toNat : Int) = N
      rw [hcost, hb]
      exact Int.add_sub_cancel (N : Int) 1
    obtain ⟨t, hrun, hheld⟩ := ih (s := spinDone s) hm hbud hr ⟨kind, a, wd, k, hs, hk⟩
      (fun j hj => hans (j + 1) (Nat.succ_lt_succ hj)) (hlow.step hst)
    exact ⟨t, (runSteps_succ hst (N + 1)).trans hrun, hheld.spin⟩

theorem grantDone_env_of_low {n : BitVec 32} {w : CmdWord} {rest : List Input} (h : s.env.rst = []) :
    (grantDone n w rest s).env = (s.takeCmd w rest).env := by
  simp only [grantDone, State.takeCmd, State.emit, State.withPending, h, List.tail_nil]

/-- Settles O22: the grant makes the budget N, and each cycle of it is a Ready operation. -/
theorem readyLineHold : Obligations.ReadyLineHold := by
  intro s w rest n N hm hf hb hr hp hd hn hN hmicro hans
  have hst := step_grant (rstLow_of_nil hr).noReset hm hf hp hd (by omega)
  have hbud : (grantDone n w rest s).budget = N := show s.budget + n.toInt = N by omega
  have hrst : (grantDone n w rest s).env.rst = [] := congrArg List.tail hr
  rw [← grantDone_env_of_low hr] at hans
  obtain ⟨t, hrun, h⟩ := runSteps_held rfl hbud hrst hmicro hans
  exact ⟨t, (runSteps_succ hst (N + 1)).trans hrun, h.mode, h.budget, h.inSpin (.inr hN), h.rp, h.arch, h.lastAddr,
    h.faultCode.trans hf, h.trace, h.flush.trans (congrArg (· + 1) (flushCount_cmd w _))⟩

/-! ## Split invariance (R126) -/

/-- Two outside worlds in which the handler has seen the same operations and answers alike from its own data. -/
structure SameCourse (e e' : Env) : Prop where
  handler : e'.handler = e.handler
  world : e'.world = e.world
  answers : e'.answers = e.answers
  mem : e'.mem = e.mem
  opCount : e'.opCount = e.opCount
  rdyScript : e'.rdyScript = e.rdyScript
  rdyRest : e'.rdyRest = e.rdyRest
  trace : busTrace e'.log = busTrace e.log

section Course

variable {e e' : Env} {b : Int}

/-- A script long enough for a cycle of budget has an answer; else the oracle sees only the operations. -/
theorem HandlerByTrace.oracle_or_answer (h : HandlerByTrace b e) (hb : 0 < b) (hh : e.handler = .scripted) :
    OracleByTrace e.world ∨ ∃ a l, e.answers = a :: l := by
  obtain h | h | h | ⟨-, hlen⟩ := h
  · exact nomatch hh.symm.trans h
  · exact nomatch hh.symm.trans h
  · exact .inl h
  · cases ha : e.answers with
    | nil =>
      rw [ha, List.length_nil] at hlen
      omega
    | cons a l => exact .inr ⟨a, l, rfl⟩

/-- An attached oracle sees only the operations. -/
theorem HandlerByTrace.oracle (h : HandlerByTrace b e) (hh : e.handler = .oracle) : OracleByTrace e.world := by
  obtain h | h | h | ⟨h, -⟩ := h
  · exact nomatch hh.symm.trans h
  · exact nomatch hh.symm.trans h
  · exact h
  · exact nomatch hh.symm.trans h

/-- What the handler shows, its line and its answers, is the same in both worlds. -/
theorem SameCourse.shows (hc : SameCourse e e') (h : HandlerByTrace b e) (hb : 0 < b) :
    rdyLine e' = rdyLine e ∧ ∀ op, busAnswer e' op = busAnswer e op := by
  have horacle (ho : OracleByTrace e.world) := ho e'.log e.log hc.trace
  cases hh : e.handler with
  | oracle =>
    simp only [rdyLine, busAnswer, hc.handler, hc.world, hh]
    exact horacle (h.oracle hh)
  | scripted =>
    simp only [rdyLine, busAnswer, hc.handler, hc.world, hc.answers, hh]
    obtain ho | ⟨a, l, ha⟩ := h.oracle_or_answer hb hh
    · obtain ⟨hrdy, hans⟩ := horacle ho
      exact ⟨by rw [hrdy], fun op => by rw [hans]⟩
    · simp only [ha, implies_true, and_self]
  | refhnd | zerohnd =>
    simp only [rdyLine, busAnswer, hc.handler, hc.mem, hc.opCount, hc.rdyScript, hc.rdyRest, hh, implies_true, and_self]

/-- The same operation with the same answer keeps the course. -/
theorem SameCourse.afterOp {op : BusOp} (hc : SameCourse e e') (ha : busAnswer e' op = busAnswer e op) :
    SameCourse (issueOp e op) (issueOp e' op) where
  handler := hc.handler
  world := hc.world
  answers := by simp only [issueOp, answersAfter, hc.handler, hc.answers]
  mem := by simp only [issueOp, memAfter, hc.handler, hc.mem]
  opCount := congrArg (· + 1) hc.opCount
  rdyScript := hc.rdyScript
  rdyRest := hc.rdyRest
  trace := by
    show (op, busAnswer e' op) :: busTrace e'.log = (op, busAnswer e op) :: busTrace e.log
    rw [ha, hc.trace]

/-- An operation uses up at most one answer of a script, and at least one cycle. -/
theorem HandlerByTrace.afterOp (h : HandlerByTrace b e) (op : BusOp) {c : Nat} (hc : 1 ≤ c) :
    HandlerByTrace (b - c) (issueOp e op) := by
  obtain h | h | h | ⟨h, hlen⟩ := h
  · exact .inl h
  · exact .inr (.inl h)
  · exact .inr (.inr (.inl h))
  · refine .inr (.inr (.inr ⟨h, ?_⟩))
    have htail : (issueOp e op).answers = e.answers.tail := by
      simp only [issueOp, answersAfter, h]
    rw [htail, List.length_tail]
    omega

end Course

/-- A RUN in progress at the position of `s`, with `r` cycles more and in the outside world `e`. -/
def State.ahead (r : Int) (e : Env) (s : State) : State :=
  { s with mode := .running, budget := s.budget + r, env := e }

/-- `t` is a RUN in progress at the position of `s`, with `r` cycles more and on the same course. -/
def Ahead (r : Int) (s t : State) : Prop := ∃ e, SameCourse s.env e ∧ t = s.ahead r e

section Lockstep

variable {e : Env} {r : Int}

theorem accessDone_ahead {n : Nat} {kind : AccessKind} {a wd : Nat} {k : Arch → Nat → Arch × Fin (n + 1)}
    (ha : busAnswer e (accessOp s.params kind a wd) = busAnswer s.env (accessOp s.params kind a wd)) :
    accessDone kind a wd k (s.ahead r e) =
      (accessDone kind a wd k s).ahead r (issueOp e (accessOp s.params kind a wd)) := by
  simp only [accessDone, State.ahead, State.issue, ha]
  congr 1
  omega

theorem spinDone_ahead (ha : busAnswer e (spinOp s) = busAnswer s.env (spinOp s)) :
    spinDone (s.ahead r e) = (spinDone s).ahead r (issueOp e (spinOp s)) := by
  have hop : spinOp (s.ahead r e) = spinOp s := rfl
  simp only [spinDone, hop]
  simp only [State.ahead, State.issue, ha]
  congr 1
  omega

theorem intStep_ahead {n : Nat} (k : Arch → Arch × Fin (n + 1)) (hc : SameCourse s.env e)
    (hf : (s.intStep k).faultCode = 0) : Ahead r (s.intStep k) ((s.ahead r e).intStep k) := by
  rw [intStep_eq] at hf ⊢
  split at hf
  next => exact absurd hf (code_range .noneLimit).1
  next hl =>
    rw [if_neg hl]
    exact ⟨e, hc, (intStep_eq k (s.ahead r e)).trans (if_neg hl)⟩

variable {b : Int} (hc : SameCourse s.env e) (hh : HandlerByTrace b s.env) (hb : 0 < b)
include hc hh hb

theorem busStep_ahead {n : Nat} (kind : AccessKind) (a wd : Nat) (k : Arch → Nat → Arch × Fin (n + 1))
    (hf : (s.busStep kind a wd k).faultCode = 0) :
    Ahead r (s.busStep kind a wd k) ((s.ahead r e).busStep kind a wd k) := by
  have ha := (hc.shows hh hb).2 (accessOp s.params kind a wd)
  rw [busStep_eq] at hf ⊢
  split at hf
  next => exact absurd hf (code_range .costInvalid).1
  next hcost =>
    rw [if_neg hcost]
    rw [← ha] at hcost
    exact ⟨_, hc.afterOp ha, ((busStep_eq kind a wd k (s.ahead r e)).trans (if_neg hcost)).trans (accessDone_ahead ha)⟩

theorem spinStep_ahead (hf : s.spinStep.faultCode = 0) : Ahead r s.spinStep (s.ahead r e).spinStep := by
  have ha := (hc.shows hh hb).2 (spinOp s)
  rw [spinStep_eq] at hf ⊢
  split at hf
  next => exact absurd hf (code_range .costInvalid).1
  next hcost =>
    rw [if_neg hcost]
    rw [← ha] at hcost
    exact ⟨_, hc.afterOp ha, ((spinStep_eq (s.ahead r e)).trans (if_neg hcost)).trans (spinDone_ahead ha)⟩

/-- The step that is due does not depend on the budget, and keeps the two RUNs `r` cycles apart. -/
theorem stepperStep_ahead (hf : s.stepperStep.faultCode = 0) :
    Ahead r s.stepperStep (s.ahead r e).stepperStep := by
  have hd : (s.ahead r e).due = s.due := congrArg (fun rdy => dueOf rdy s.microStep) (hc.shows hh hb).1
  cases hs : s.due with
  | access kind a wd k =>
    rw [stepperStep_access hs] at hf ⊢
    rw [stepperStep_access (hd.trans hs)]
    exact busStep_ahead hc hh hb kind a wd k hf
  | spin =>
    rw [stepperStep_spin hs] at hf ⊢
    rw [stepperStep_spin (hd.trans hs)]
    exact spinStep_ahead hc hh hb hf
  | internal k =>
    rw [stepperStep_internal hs] at hf ⊢
    rw [stepperStep_internal (hd.trans hs)]
    exact intStep_ahead k hc hf

end Lockstep

theorem Stepped.mode (h : Stepped s t) (hf : t.faultCode = 0) : t.mode = s.mode := by
  cases h with
  | charged h => exact h.mode
  | counted h => exact h.mode
  | costFault op _ => exact absurd hf (code_range .costInvalid).1
  | limitFault => exact absurd hf (code_range .noneLimit).1

theorem Stepped.idle_of_fault (h : Stepped s t) (hs : s.faultCode = 0) (hf : t.faultCode ≠ 0) : t.mode = .idle := by
  cases h with
  | charged h => exact absurd (h.faultCode.trans hs) hf
  | counted h => exact absurd (h.faultCode.trans hs) hf
  | costFault op _ => rfl
  | limitFault => rfl

theorem step_running_idle_of_fault (hr : NoReset s) (hm : s.mode = .running) (hb : 0 < s.budget)
    (hs : s.faultCode = 0) (h : step s = .next t) (hf : t.faultCode ≠ 0) : t.mode = .idle := by
  rw [step_running hr hm hb] at h
  cases h
  exact (stepped_stepperStep s.afterSample).idle_of_fault hs hf

/-- The premise of R126 lasts while what is charged comes off the cycles it is for. -/
theorem Stepped.handlerByTrace {r : Int} (h : Stepped s t) (hf : t.faultCode = 0)
    (hh : HandlerByTrace (s.budget + r) s.env) : HandlerByTrace (t.budget + r) t.env := by
  cases h with
  | @charged op _ h =>
    have hsplit : t.budget + r = s.budget + r - ((busAnswer s.env op).cost.toNat : Int) := by
      rw [h.budget]
      omega
    rw [hsplit, h.env]
    exact hh.afterOp op (cost_pos h.cost)
  | counted h => rwa [h.budget, h.env]
  | costFault op _ => exact absurd hf (code_range .costInvalid).1
  | limitFault => exact absurd hf (code_range .noneLimit).1

/-- A faulted idle block runs no command: the gate answers it (R214, R215). -/
theorem exec_faulted {i : Instr} (hi : ∀ b, i ≠ instrOfKind b) (hm : s.mode = .idle) (hf : s.faultCode ≠ 0)
    (h : exec i s = .next t) : t.mode = .idle ∧ t.faultCode ≠ 0 := by
  obtain rfl | ⟨act, hact⟩ := exec_status_or_command hi
  · obtain ⟨-, rfl⟩ := execStatus_cases h
    exact ⟨hm, hf⟩
  · rw [hact, command_gated hm hf] at h
    cases h
    exact ⟨hm, hf⟩

theorem rejectWord_faulted (hm : s.mode = .idle) (hf : s.faultCode ≠ 0) :
    s.rejectWord.mode = .idle ∧ s.rejectWord.faultCode ≠ 0 := by
  rw [State.rejectWord, if_pos hf]
  exact ⟨hm, hf⟩

theorem step_faulted (hr : NoReset s) (hm : s.mode = .idle) (hf : s.faultCode ≠ 0) (h : step s = .next t) :
    t.mode = .idle ∧ t.faultCode ≠ 0 := by
  obtain ⟨hr', -⟩ | ⟨-, ⟨hm', -⟩ | ⟨hm', -⟩ | ⟨-, -, rfl⟩ | ⟨w, rest, i, -, -, hd, he⟩ | ⟨w, rest, e, -, -, -, rfl⟩ |
    ⟨m, rest, i, -, -, hd, he⟩ | ⟨m, rest, e, -, -, -, rfl⟩ | ⟨pid, ws, rest, -, -, rfl⟩⟩ := step_cases h
  · exact absurd hr' hr
  · exact nomatch hm.symm.trans hm'
  · exact nomatch hm.symm.trans hm'
  · exact ⟨hm, hf⟩
  · exact exec_faulted (s := s.afterSample.takeCmd w rest) (decode_notKind hd) hm hf he
  · exact rejectWord_faulted (s := s.afterSample.takeCmd w rest) hm hf
  · obtain rfl := decodeMop_ok hd
    exact exec_faulted (s := s.afterSample.withPending rest) mopNext_notKind hm hf he
  · exact ⟨hm, hf⟩
  · exact ⟨hm, hf⟩

theorem runSteps_faulted {k : Nat} (hlow : RstLow s) (hm : s.mode = .idle) (hf : s.faultCode ≠ 0)
    (h : runSteps k s = .next t) : t.faultCode ≠ 0 := by
  induction k generalizing s with
  | zero =>
    cases h
    exact hf
  | succ k ih =>
    obtain ⟨u, hu, hk⟩ := runSteps_succ_cases h
    obtain ⟨hmu, hfu⟩ := step_faulted hlow.noReset hm hf hu
    exact ih (hlow.step hu) hmu hfu hk

/-- The commands RUN of a list of grants, and the sum of the grants. -/
def runCmds (ns : List (BitVec 32)) : List Input := ns.map fun x => .cmd (format32 0x01 x)
def grantSum (ns : List (BitVec 32)) : Int := (ns.map BitVec.toInt).sum

theorem grantSum_cons (n : BitVec 32) (ns : List (BitVec 32)) : grantSum (n :: ns) = n.toInt + grantSum ns :=
  List.sum_cons

theorem grantSum_nonneg {ns : List (BitVec 32)} (h : ∀ n ∈ ns, 0 ≤ n.toInt) : 0 ≤ grantSum ns := by
  refine List.sum_nonneg fun x hx => ?_
  obtain ⟨n, hn, rfl⟩ := List.mem_map.1 hx
  exact h n hn

theorem decode_run (vw : Nat) (n : BitVec 32) : decode vw (format32 0x01 n) = .ok (.run n) :=
  decode_of_encode (i := .run n) rfl rfl

/-- Every input is taken and every RUN over, without a fault. -/
structure Over (s : State) : Prop where
  mode : s.mode = .idle
  taken : s.env.pending = []
  fault : s.faultCode = 0

/-- `k` steps bring the block to `t` with every RUN over. -/
def Finishes (k : Nat) (s t : State) : Prop := runSteps k s = .next t ∧ Over t

/-- A step of a block with something to do is on its way. -/
theorem Finishes.step {k : Nat} (h : Finishes k s t) (hs : ¬ Over s) (hst : step s = .next u) :
    ∃ j, k = j + 1 ∧ Finishes j u t := by
  obtain ⟨hk, ho⟩ := h
  cases k with
  | zero =>
    cases hk
    exact absurd ho hs
  | succ k => exact ⟨k, rfl, (runSteps_succ hst k).symm.trans hk, ho⟩

theorem Finishes.unfaulted {k : Nat} (h : Finishes k s t) (hm : s.faultCode ≠ 0 → s.mode = .idle) (hlow : RstLow s) :
    s.faultCode = 0 := by
  obtain ⟨hk, ho⟩ := h
  by_contra hf
  exact runSteps_faulted hlow (hm hf) hf hk ho.fault

theorem not_over_running (hm : s.mode = .running) : ¬ Over s := fun h => nomatch hm.symm.trans h.mode

theorem not_over_waiting {x : Input} {l : List Input} (hp : s.env.pending = x :: l) : ¬ Over s :=
  fun h => nomatch hp.symm.trans h.taken

/-- The same operations with the same answers, and the same state of the stepper (R126). -/
def SameRun (s t : State) : Prop :=
  busTrace s.env.log = busTrace t.env.log ∧ s.rp = t.rp ∧ s.arch = t.arch ∧ s.budget = t.budget ∧
    s.inSpin = t.inSpin ∧ s.lastAddr = t.lastAddr ∧ s.noneRun = t.noneRun

/-- The commands `ns` still wait in `s`, and `t` is the single RUN, ahead of `s` by their grants. -/
structure Split (ns : List (BitVec 32)) (s t : State) : Prop where
  ahead : Ahead (grantSum ns) s t
  byTrace : HandlerByTrace (s.budget + grantSum ns) s.env
  lowSplit : RstLow s
  lowSingle : RstLow t
  waits : s.env.pending = runCmds ns
  taken : t.env.pending = []
  fault : s.faultCode = 0
  nonneg : ∀ n ∈ ns, 0 ≤ n.toInt
  /-- between two of its commands the split run has no budget left, unless the first of them is still to come -/
  idle : s.mode = .idle → s.budget ≤ 0 ∨ 0 < grantSum ns

section Split

variable {ns : List (BitVec 32)} {n : BitVec 32}

theorem Split.mode_single (h : Split ns s t) : t.mode = .running := by
  obtain ⟨e, -, rfl⟩ := h.ahead
  rfl

theorem Split.budget_single (h : Split ns s t) : t.budget = s.budget + grantSum ns := by
  obtain ⟨e, -, rfl⟩ := h.ahead
  rfl

/-- A step of the split run is a step of the single one. -/
theorem Split.afterStep (h : Split ns s t) (hm : s.mode = .running) (hb : 0 < s.budget) {v w : State}
    (hv : step s = .next v) (hw : step t = .next w) (hf : v.faultCode = 0) : Split ns v w := by
  have hsum := grantSum_nonneg h.nonneg
  have hlow := h.lowSplit.step hv
  have hlow' := h.lowSingle.step hw
  have hwaits := (runTakesNoInput _ _ hm hv).1.trans h.waits
  have htaken := (runTakesNoInput _ _ h.mode_single hw).1.trans h.taken
  have hbt : 0 < t.budget := by rw [h.budget_single]; omega
  rw [step_running h.lowSplit.noReset hm hb] at hv
  rw [step_running h.lowSingle.noReset h.mode_single hbt] at hw
  cases hv
  cases hw
  have hstepped := stepped_stepperStep s.afterSample
  obtain ⟨e, hc, rfl⟩ := h.ahead
  exact
    { ahead := stepperStep_ahead (s := s.afterSample) (e := { e with rst := e.rst.tail }) { hc with } h.byTrace hbt hf
      byTrace := hstepped.handlerByTrace hf h.byTrace
      lowSplit := hlow
      lowSingle := hlow'
      waits := hwaits
      taken := htaken
      fault := hf
      nonneg := h.nonneg
      idle := fun hi => nomatch hm.symm.trans ((hstepped.mode hf).symm.trans hi) }

/-- The end of one of the split RUNs is no step of the single one. -/
theorem Split.afterFinish (h : Split ns s t) (hm : s.mode = .running) (hb : s.budget ≤ 0)
    (hv : step s = .next u) : Split ns u t := by
  have hlow := h.lowSplit.step hv
  rw [step_runEnd h.lowSplit.noReset hm hb] at hv
  cases hv
  obtain ⟨e, hc, ht⟩ := h.ahead
  exact { h with ahead := ⟨e, { hc with }, ht⟩, lowSplit := hlow, idle := fun _ => .inl hb }

/-- Taking a RUN without cycles leaves what is still to come. -/
theorem Split.afterNoop (h : Split (n :: ns) s t) (hm : s.mode = .idle) (hn : n.toInt ≤ 0)
    (hv : step s = .next u) : Split ns u t := by
  have hlow := h.lowSplit.step hv
  rw [step_noop h.lowSplit.noReset hm h.fault h.waits (decode_run _ n) hn] at hv
  cases hv
  have hsum : grantSum (n :: ns) = grantSum ns := by
    have hn0 := h.nonneg n List.mem_cons_self
    rw [grantSum_cons]
    omega
  obtain ⟨e, hc, ht⟩ := h.ahead
  rw [hsum] at ht
  exact
    { ahead := ⟨e, { hc with }, ht⟩
      byTrace := hsum ▸ h.byTrace
      lowSplit := hlow
      lowSingle := h.lowSingle
      waits := rfl
      taken := h.taken
      fault := h.fault
      nonneg := fun x hx => h.nonneg x (List.mem_cons_of_mem n hx)
      idle := fun _ => hsum ▸ h.idle hm }

/-- Taking a RUN moves its grant from what is still to come to the budget. -/
theorem Split.afterGrant (h : Split (n :: ns) s t) (hm : s.mode = .idle) (hn : 0 < n.toInt)
    (hv : step s = .next u) : Split ns u t := by
  have hlow := h.lowSplit.step hv
  rw [step_grant h.lowSplit.noReset hm h.fault h.waits (decode_run _ n) hn] at hv
  cases hv
  have hsum : s.budget + grantSum (n :: ns) = s.budget + n.toInt + grantSum ns := by
    rw [grantSum_cons, Int.add_assoc]
  obtain ⟨e, hc, ht⟩ := h.ahead
  rw [State.ahead, hsum] at ht
  exact
    { ahead := ⟨e, { hc with }, ht⟩
      byTrace := hsum ▸ h.byTrace
      lowSplit := hlow
      lowSingle := h.lowSingle
      waits := rfl
      taken := h.taken
      fault := h.fault
      nonneg := fun x hx => h.nonneg x (List.mem_cons_of_mem n hx)
      idle := nofun }

/-- With no command left and the split run over, the single one has no budget left either, and ends. -/
theorem Split.sameRun_over {j : Nat} {w : State} (h : Split [] s t) (hm : s.mode = .idle) (ht : Finishes j t w) :
    SameRun s w := by
  have hb : s.budget ≤ 0 := (h.idle hm).resolve_right (Int.lt_irrefl 0)
  have hbt : t.budget ≤ 0 := h.budget_single.trans_le ((Int.add_zero _).trans_le hb)
  have hst := step_runEnd h.lowSingle.noReset h.mode_single hbt
  have hlow := h.lowSingle.step hst
  obtain ⟨i, -, hrun, -⟩ := ht.step (not_over_running h.mode_single) hst
  obtain ⟨r, rfl⟩ := runSteps_idleEmpty (s := t.afterSample.finishRun) rfl h.taken hlow hrun
  obtain ⟨e, hc, rfl⟩ := h.ahead
  exact ⟨hc.trace.symm, rfl, rfl, (Int.add_zero _).symm, rfl, rfl, rfl⟩

/-- By induction on the split run's steps. -/
theorem Split.sameRun {k j : Nat} {v w : State} (h : Split ns s t) (hs : Finishes k s v) (ht : Finishes j t w) :
    SameRun v w := by
  induction k generalizing s t ns j with
  | zero =>
    obtain ⟨hk, ho⟩ := hs
    cases hk
    cases ns with
    | nil => exact h.sameRun_over ho.mode ht
    | cons n ns => exact absurd ho (not_over_waiting h.waits)
  | succ k ih =>
    obtain ⟨u, hu⟩ := noStepStops s
    have goesOn (hs' : ¬ Over s) : Finishes k u v := by
      obtain ⟨i, hi, hfin⟩ := hs.step hs' hu
      cases hi
      exact hfin
    cases hm : s.mode with
    | running =>
      have hnext := goesOn (not_over_running hm)
      by_cases hb : 0 < s.budget
      · obtain ⟨u', hu'⟩ := noStepStops t
        obtain ⟨i, -, hnext'⟩ := ht.step (not_over_running h.mode_single) hu'
        have hf : u.faultCode = 0 :=
          hnext.unfaulted (step_running_idle_of_fault h.lowSplit.noReset hm hb h.fault hu) (h.lowSplit.step hu)
        exact ih (h.afterStep hm hb hu hu' hf) hnext hnext'
      · exact ih (h.afterFinish hm (not_lt.1 hb) hu) hnext ht
    | idle =>
      cases ns with
      | nil =>
        obtain ⟨hrun, -⟩ := hs
        obtain ⟨r, rfl⟩ := runSteps_idleEmpty hm h.waits h.lowSplit hrun
        exact h.sameRun_over hm ht
      | cons n ns =>
        have hnext := goesOn (not_over_waiting h.waits)
        by_cases hn : 0 < n.toInt
        · exact ih (h.afterGrant hm hn hu) hnext ht
        · exact ih (h.afterNoop hm (not_lt.1 hn) hu) hnext ht

end Split

/-- RUNs without cycles leave the stepper (R124). -/
theorem sameRun_noops {k : Nat} {ns : List (BitVec 32)} (hm : s.mode = .idle) (hf : s.faultCode = 0) (hlow : RstLow s)
    (hp : s.env.pending = runCmds ns) (hns : ∀ n ∈ ns, n.toInt ≤ 0) (h : runSteps k s = .next t) : SameRun s t := by
  induction k generalizing s ns with
  | zero =>
    cases h
    exact ⟨rfl, rfl, rfl, rfl, rfl, rfl, rfl⟩
  | succ k ih =>
    cases ns with
    | nil =>
      obtain ⟨r, rfl⟩ := runSteps_idleEmpty hm hp hlow h
      exact ⟨rfl, rfl, rfl, rfl, rfl, rfl, rfl⟩
    | cons n ns =>
      have hst := step_noop hlow.noReset hm hf hp (decode_run _ n) (hns n List.mem_cons_self)
      have hlowu := hlow.step hst
      rw [runSteps_succ hst] at h
      exact ih (s := noopDone _ _ s) hm hf hlowu rfl (fun x hx => hns x (List.mem_cons_of_mem n hx)) h

theorem SameRun.symm_trans (h : SameRun s t) (h' : SameRun s u) : SameRun t u := by
  obtain ⟨h1, h2, h3, h4, h5, h6, h7⟩ := h
  obtain ⟨g1, g2, g3, g4, g5, g6, g7⟩ := h'
  exact ⟨h1.symm.trans g1, h2.symm.trans g2, h3.symm.trans g3, h4.symm.trans g4, h5.symm.trans g5, h6.symm.trans g6,
    h7.symm.trans g7⟩

/-- Grants that are not negative and add up to none are none. -/
theorem grants_le_zero {ns : List (BitVec 32)} (h : ∀ n ∈ ns, 0 ≤ n.toInt) (hsum : grantSum ns ≤ 0) :
    ∀ n ∈ ns, n.toInt ≤ 0 := by
  intro n hn
  refine (List.single_le_sum (fun x hx => ?_) _ (List.mem_map_of_mem hn)).trans hsum
  obtain ⟨m, hm, rfl⟩ := List.mem_map.1 hx
  exact h m hm

/-- The single RUN, once it is granted, is ahead of the split one by all the grants. -/
theorem split_start {ns : List (BitVec 32)} {n : BitVec 32} (hf : s.faultCode = 0) (hr : s.env.rst = [])
    (hns : ∀ x ∈ ns, 0 ≤ x.toInt) (hsum : grantSum ns = n.toInt) (hh : HandlerByTrace (s.budget + n.toInt) s.env)
    (hn : 0 < n.toInt) (w : CmdWord) :
    Split ns (s.withPending (runCmds ns))
      (grantDone n w [] (s.withPending [.cmd w])) where
  ahead := by
    rw [hsum]
    exact ⟨(grantDone n w [] (s.withPending [.cmd w])).env, ⟨rfl, rfl, rfl, rfl, rfl, rfl, rfl, rfl⟩, rfl⟩
  byTrace := hsum ▸ hh
  lowSplit := rstLow_of_nil hr
  lowSingle := rstLow_of_nil (congrArg List.tail hr)
  waits := rfl
  taken := rfl
  fault := hf
  nonneg := hns
  idle _ := .inr (hsum ▸ hn)

/-- Settles O23: with a cycle to run the two go in step, and without one neither does anything. -/
theorem splitInvariance : Obligations.SplitInvariance := by
  intro s t u ns n k m hm hf hr hns hsum hh hk hm' htm htp htf hum hup huf
  have hsum : grantSum ns = n.toInt := hsum
  have hlow (l : List Input) : RstLow (s.withPending l) := rstLow_of_nil hr
  by_cases hn : 0 < n.toInt
  · have hst := step_grant (s := s.withPending [.cmd (format32 0x01 n)]) (hlow _).noReset hm hf rfl (decode_run _ n) hn
    have hu : Finishes m (s.withPending [.cmd (format32 0x01 n)]) u := ⟨hm', hum, hup, huf⟩
    obtain ⟨j, -, hfin⟩ := hu.step (not_over_waiting rfl) hst
    exact (split_start hf hr hns hsum hh hn _).sameRun ⟨hk, htm, htp, htf⟩ hfin
  · have hsplit := sameRun_noops (s := s.withPending (runCmds ns)) hm hf (hlow _) rfl
      (grants_le_zero hns (hsum.trans_le (not_lt.1 hn))) hk
    have hsingle := sameRun_noops (s := s.withPending (runCmds [n])) hm hf (hlow _) rfl
      (by simpa using not_lt.1 hn) hm'
    exact hsplit.symm_trans hsingle

end Sys2Proof.Machine
end

section
/-! PROOFS of the family 41_scheduler (R150 to R155, R211, R220 to R224): the ring stays contiguous, SCHED appends to
it, which command faults on which condition, which cause latches which code, and what no command but RUN touches. -/

namespace Sys2Proof.Machine

variable {s t : State}

/-! ## The ring (R150, R154) -/

theorem State.RingOk.congr (h : s.RingOk) (hs : SameScheduler s t) : t.RingOk := by
  obtain ⟨hslots, hridx, hwidx, -⟩ := hs
  obtain ⟨n, hn, hw, hrun⟩ := h
  refine ⟨n, hn, by rw [hwidx, hridx, hw], fun k hk => ?_⟩
  rw [slotAt_congr hslots, hridx]
  exact hrun k hk

theorem State.RingOk.next {i : Instr} (h : s.RingOk) (hi : i = .nextprog ∨ i = .mopNext)
    (he : exec i s = .next t) : t.RingOk :=
  (execNext_cases hi he).keeps h (by rintro (⟨-, rfl⟩ | ⟨hr, rfl⟩) <;> [exact h; exact h.pop hr])

/-- Every command and the sentinel keep the ring's discipline: SCHED makes the run of programs longer, NEXTPROG and
the sentinel make it shorter, and the others leave the slots and the indices. -/
theorem State.RingOk.command {i : Instr} (h : s.RingOk) (hi : ∀ b, i ≠ instrOfKind b) (he : exec i s = .next t) :
    t.RingOk := by
  cases i with
  | run n => exact h.congr (keepsUnits_run he).1
  | sched pid =>
    refine (execSched_cases he).keeps h fun ho => ?_
    obtain ⟨-, rfl⟩ | ⟨-, -, rfl⟩ | ⟨hp, hw, rfl⟩ := ho
    · exact h
    · exact h
    · exact h.push hp hw
  | nextprog => exact h.next (.inl rfl) he
  | mopNext => exact h.next (.inr rfl) he
  | fetchop =>
    refine (execFetchop_cases he).keeps h fun ho => ?_
    obtain ⟨-, rfl⟩ | ⟨-, -, rfl⟩ | ⟨m, -, -, rfl⟩ := ho <;> exact h
  | dispatch a b => exact h.congr (dispatchClassifyStatus_keepsUnits (.inl ⟨a, b, rfl⟩) he).1
  | classify iw => exact h.congr (dispatchClassifyStatus_keepsUnits (.inr (.inl ⟨iw, rfl⟩)) he).1
  | status => exact h.congr (dispatchClassifyStatus_keepsUnits (.inr (.inr rfl)) he).1
  | dvalue => exact h.congr (pipeline_keepsScheduler (.inl rfl) he)
  | dadvance => exact h.congr (pipeline_keepsScheduler (.inr (.inl rfl)) he)
  | dinsert v => exact h.congr (pipeline_keepsScheduler (.inr (.inr ⟨v, rfl⟩)) he)
  | busRead => exact absurd rfl (hi .read)
  | busReadopcode => exact absurd rfl (hi .readOpcode)
  | busWrite => exact absurd rfl (hi .write)
  | busReady => exact absurd rfl (hi .ready)
  | busNone => exact absurd rfl (hi .none)

theorem sameScheduler_rejectWord (s : State) : SameScheduler s s.rejectWord := by
  unfold State.rejectWord
  split <;> exact ⟨rfl, rfl, rfl, rfl⟩

/-- Every step keeps the ring's discipline. -/
theorem State.RingOk.step (h0 : s.RingOk) (hst : step s = .next t) : t.RingOk := by
  have h : s.afterSample.RingOk := h0
  rcases step_cases hst with ⟨-, rfl⟩ | ⟨-, ⟨-, -, ⟨kind, a, wd, k, -, rfl⟩ | ⟨-, rfl⟩ | ⟨k, -, rfl⟩⟩ | ⟨-, -, rfl⟩ |
    ⟨-, -, rfl⟩ | ⟨w, rest, i, -, -, hd, he⟩ | ⟨w, rest, e, -, -, -, rfl⟩ | ⟨m, rest, i, -, -, hd, he⟩ |
    ⟨m, rest, e, -, -, -, rfl⟩ | ⟨pid, ws, rest, -, -, rfl⟩⟩
  · exact ringOk_resetBlock _
  · exact h.congr (keepsUnits_busStep kind a wd k _).1
  · exact h.congr (keepsUnits_spinStep _).1
  · exact h.congr (keepsUnits_intStep k _).1
  · exact h
  · exact h
  · exact State.RingOk.command (s := s.afterSample.takeCmd w rest) h (decode_notKind hd) he
  · exact State.RingOk.congr (s := s.afterSample.takeCmd w rest) h (sameScheduler_rejectWord _)
  · obtain rfl := decodeMop_ok hd
    exact State.RingOk.next (s := s.afterSample.withPending rest) h (.inr rfl) he
  · exact h
  · exact h

/-- A sum over the four ring positions may start at any of them. -/
theorem ringSum_rotate (f : BitVec 2 → Nat) (r : BitVec 2) :
    f (r + 0) + f (r + 1) + f (r + 2) + f (r + 3) = f 0 + f 1 + f 2 + f 3 := by
  have hr : r = 0 ∨ r = 1 ∨ r = 2 ∨ r = 3 := by revert r; decide
  obtain rfl | rfl | rfl | rfl := hr
  · rfl
  · show f 1 + f 2 + f 3 + f 0 = _
    omega
  · show f 2 + f 3 + f 0 + f 1 = _
    omega
  · show f 3 + f 0 + f 1 + f 2 = _
    omega

/-- The length of the run of programs is the number of outstanding programs. -/
theorem outstanding_of_run {n : Nat} (hn : n ≤ 4)
    (hrun : ∀ k : Nat, k < 4 → (s.slotAt (s.ridx + BitVec.ofNat 2 k) ≠ 0 ↔ k < n)) : s.outstanding = n := by
  have hcount : ∀ k : Nat, k < 4 →
      (if s.slotAt (s.ridx + BitVec.ofNat 2 k) = 0 then 0 else 1) = if k < n then 1 else 0 := fun k hk => by
    rw [← ite_not]
    exact if_congr (hrun k hk) rfl rfl
  have hsum := ringSum_rotate (fun i => if s.slotAt i = 0 then 0 else 1) s.ridx
  calc s.outstanding
      = (if 0 < n then 1 else 0) + (if 1 < n then 1 else 0) + (if 2 < n then 1 else 0) + (if 3 < n then 1 else 0) := by
        rw [← hcount 0 (by decide), ← hcount 1 (by decide), ← hcount 2 (by decide), ← hcount 3 (by decide)]
        exact hsum.symm
    _ = n := by interval_cases n <;> rfl

/-- Settles O11: the ring is empty after reset, every step keeps its discipline, and the length of its run of programs
is their number. -/
theorem ringStaysContiguous : Obligations.RingStaysContiguous := by
  refine ⟨ringOk_resetBlock State.reset, fun s t h hst => h.step hst, fun s h => ?_⟩
  obtain ⟨n, hn, hw, hrun⟩ := h
  obtain rfl := outstanding_of_run hn hrun
  exact ⟨hn, hw, hrun⟩

/-! ## SCHED (R151) -/

theorem exec_sched_push {pid : Pid} (hm : s.mode = .idle) (hf : s.faultCode = 0) (hp : pid ≠ 0)
    (hw : s.slotAt s.widx = 0) :
    exec (.sched pid) s = .next (State.respond 0 { s.setSlot s.widx pid with widx := s.widx + 1 }) := by
  have hlegal : pidLegal pid = true := bne_iff_ne.2 hp
  simp only [exec, execSched, command_open hm hf, hlegal, Bool.not_true, Bool.false_eq_true, if_false, hw, ne_eq,
    not_true_eq_false]

/-- Settles O30: SCHED writes one slot, whose reads `slotAt_setSlot` gives. -/
theorem schedAppendsAProgram : Obligations.SchedAppendsAProgram := by
  intro s pid hm hf hp hw
  have hslot (j : BitVec 2) := slotAt_setSlot s s.widx pid j
  exact ⟨_, exec_sched_push hm hf hp hw, (hslot _).trans (if_pos rfl), fun j hj => (hslot j).trans (if_neg hj),
    BitVec.toNat_add _ _, rfl, rfl, ⟨rfl, rfl, rfl, rfl, rfl, rfl, rfl⟩, rfl, hf, rfl, rfl, rfl, fun _ => rfl⟩

/-! ## The commands' own faults (R213, R220 to R224) -/

/-- The condition on which an instruction with an encoding faults by its own rule, and the code it then latches. -/
inductive CommandCause (s : State) : Instr → FaultCode → Prop
  /-- SCHED with a full write slot (R220) -/
  | overflow {pid : Pid} (hp : pid ≠ 0) (hw : s.slotAt s.widx ≠ 0) : CommandCause s (.sched pid) .schedOverflow
  /-- FETCHOP, NEXTPROG or the sentinel with no program current (R221) -/
  | empty {i : Instr} (hi : i = .fetchop ∨ i = .nextprog ∨ i = .mopNext) (hr : s.slotAt s.ridx = 0) :
    CommandCause s i .schedEmpty
  /-- FETCHOP past the end of the current program (R222) -/
  | unterminated (hr : s.slotAt s.ridx ≠ 0) (hl : (s.prog (s.slotAt s.ridx)).length ≤ s.stepCtr.toNat) :
    CommandCause s .fetchop .schedUnterminated
  /-- DISPATCH without `start <= end <= DISPATCH_N` (R223) -/
  | range {a b : BitVec 12} (h : ¬ (a.toNat ≤ b.toNat ∧ b.toNat ≤ s.params.dispatchN)) :
    CommandCause s (.dispatch a b) .dispatchRange
  /-- DVALUE of a slot without an inserted value (R224) -/
  | undefined (h : ∀ d, s.dslots[0]? = some d → d.valid = false) : CommandCause s .dvalue .deferUndefined

/-- With no fault latched, the gate is open and the command's own rule answers. -/
theorem Answered.own {own : Prop} (ha : Answered s t own) (hf : s.faultCode = 0) : own := by
  obtain ⟨-, ⟨hne, -⟩ | ⟨-, ho⟩⟩ := ha
  · exact absurd hf hne
  · exact ho

/-- On its condition the instruction latches the code and does nothing else. -/
theorem exec_of_commandCause {i : Instr} {c : FaultCode} (h : CommandCause s i c) (hm : s.mode = .idle)
    (hf : s.faultCode = 0) : exec i s = .next (s.raise c) := by
  cases h with
  | overflow hp hw =>
    have hlegal : pidLegal _ = true := bne_iff_ne.2 hp
    simp only [exec, execSched, command_open hm hf, hlegal, Bool.not_true, Bool.false_eq_true, if_false, if_pos hw]
  | empty hi hr =>
    obtain rfl | rfl | rfl := hi <;>
      simp only [exec, execFetchop, execNextprog, execMopNext, State.moveToNext, command_open hm hf, if_pos hr]
  | unterminated hr hl => exact exec_fetchop_end hm hf hr hl
  | range h =>
    simp only [exec, execDispatch, command_open hm hf, rangeLegal, h, decide_false, Bool.not_false, if_true]
  | undefined h =>
    obtain ⟨t, ht⟩ := exec_idle_next (i := .dvalue) (by intro b; cases b <;> nofun) hm
    obtain ⟨-, rfl⟩ | ⟨v, hv, -⟩ := (execDvalue_cases ht).own hf
    · exact ht
    · exact nomatch h _ hv

/-- A well-formed command or the sentinel that latches a code does so on the condition for that code. -/
theorem commandCause_of_exec {i : Instr} (hi : ∀ b, i ≠ instrOfKind b) (hwf : i.wf s.params.deferVW = true)
    (hf : s.faultCode = 0) (he : exec i s = .next t) (hft : t.faultCode ≠ 0) :
    ∃ c, CommandCause s i c ∧ t.faultCode = c.code := by
  have hnext (hn : i = .nextprog ∨ i = .mopNext) : ∃ c, CommandCause s i c ∧ t.faultCode = c.code := by
    obtain ⟨hr, rfl⟩ | ⟨-, rfl⟩ := (execNext_cases hn he).own hf
    · exact ⟨_, .empty (.inr hn) hr, rfl⟩
    · exact absurd hf hft
  cases i with
  | run n => obtain ⟨-, rfl⟩ | ⟨-, rfl⟩ := (execRun_cases he).own hf <;> exact absurd hf hft
  | sched pid =>
    obtain ⟨hp, -⟩ | ⟨hp, hw, rfl⟩ | ⟨-, -, rfl⟩ := (execSched_cases he).own hf
    · exact absurd hp (bne_iff_ne.1 hwf)
    · exact ⟨_, .overflow hp hw, rfl⟩
    · exact absurd hf hft
  | nextprog => exact hnext (.inl rfl)
  | mopNext => exact hnext (.inr rfl)
  | fetchop =>
    obtain ⟨hr, rfl⟩ | ⟨hr, hl, rfl⟩ | ⟨m, -, -, rfl⟩ := (execFetchop_cases he).own hf
    · exact ⟨_, .empty (.inl rfl) hr, rfl⟩
    · exact ⟨_, .unterminated hr hl, rfl⟩
    · exact absurd hf hft
  | dispatch a b =>
    obtain ⟨hr, rfl⟩ | ⟨-, rfl⟩ := (execDispatch_cases he).own hf
    · exact ⟨_, .range hr, rfl⟩
    · exact absurd hf hft
  | dvalue =>
    obtain ⟨hd, rfl⟩ | ⟨v, -, rfl⟩ := (execDvalue_cases he).own hf
    · exact ⟨_, .undefined hd, rfl⟩
    · exact absurd hf hft
  | dadvance =>
    obtain rfl := (execDadvance_cases he).own hf
    exact absurd hf hft
  | dinsert v =>
    obtain ⟨hv, -⟩ | ⟨-, rfl⟩ := (execDinsert_cases he).own hf
    · exact absurd (of_decide_eq_true hwf) (not_lt.2 hv)
    · exact absurd hf hft
  | classify iw =>
    obtain rfl := (execClassify_cases he).own hf
    exact absurd hf hft
  | status =>
    obtain ⟨-, rfl⟩ := execStatus_cases he
    exact absurd hf hft
  | busRead => exact absurd rfl (hi .read)
  | busReadopcode => exact absurd rfl (hi .readOpcode)
  | busWrite => exact absurd rfl (hi .write)
  | busReady => exact absurd rfl (hi .ready)
  | busNone => exact absurd rfl (hi .none)

theorem onlyLogs_raise (c : FaultCode) (s : State) : OnlyLogs [.resp (errWord c.code)] s (s.raise c) :=
  ⟨rfl, fun _ => rfl⟩

/-- Settles O45: each condition is a cause, and fault entry is all that the command then does. -/
theorem commandFaults : Obligations.CommandFaults := by
  intro s hm hf
  have hfault {i : Instr} {c : FaultCode} (h : CommandCause s i c) :
      ∃ t, exec i s = .next t ∧ FaultEntry c s t ∧ OnlyLogs [.resp (errWord c.code)] s t :=
    ⟨_, exec_of_commandCause h hm hf, faultEntry_raise c s, onlyLogs_raise c s⟩
  refine ⟨fun pid hp hw => hfault (.overflow hp hw), fun i hi hr => hfault (.empty hi hr),
    fun hr hl => hfault (.unterminated hr hl), fun a b h => hfault (.range h), fun d hd hv => hfault (.undefined ?_)⟩
  intro e he
  obtain rfl : d = e := Option.some.inj (hd.symm.trans he)
  exact hv

/-! ## The causes of the fault codes (R211) -/

/-- The condition on which a step of the stepper faults, and the code it then latches (R218, R219). -/
inductive StepperCause (s : State) : FaultCode → Prop
  /-- the operation that is due is answered with cost 0 (R218) -/
  | cost {op : BusOp} (hop : s.due.op s = some op) (hc : (busAnswer s.env op).cost = 0) : StepperCause s .costInvalid
  /-- an internal step is due at `NONE_LIMIT` (R219) -/
  | limit {k : Arch → Arch × Fin (s.seq.lastRp + 1)} (hd : s.due = .internal k)
    (hl : s.noneRun = s.params.noneLimit) : StepperCause s .noneLimit

/-- A step of the stepper that latches a code does so on the condition for that code. -/
theorem stepperCause_of_step (hf : s.faultCode = 0) (hft : s.stepperStep.faultCode ≠ 0) :
    ∃ c, StepperCause s c ∧ s.stepperStep.faultCode = c.code := by
  revert hft
  refine stepperStep_induct (P := fun t => t.faultCode ≠ 0 → ∃ c, StepperCause s c ∧ t.faultCode = c.code) s
    (fun kind a wd k hd => ?_) (fun hd => ?_) (fun k hd => ?_)
  · rw [busStep_eq]
    split
    next hc => exact fun _ => ⟨_, .cost (congrArg (Due.op s) hd) hc, rfl⟩
    next => exact absurd hf
  · rw [spinStep_eq]
    split
    next hc => exact fun _ => ⟨_, .cost (congrArg (Due.op s) hd) hc, rfl⟩
    next => exact absurd hf
  · rw [intStep_eq]
    split
    next hl => exact fun _ => ⟨_, .limit hd hl, rfl⟩
    next => exact absurd hf

/-- The sample of the reset line is no part of a stepper's cause. -/
theorem stepperCause_of_afterSample {c : FaultCode} (h : StepperCause s.afterSample c) : StepperCause s c := by
  cases h with
  | cost hop hc =>
    rw [afterSample_busAnswer] at hc
    exact .cost ((congrArg (Due.op s) (afterSample_due s)).symm.trans hop) hc
  | limit hd hl => exact .limit ((afterSample_due s).symm.trans hd) hl

/-- The step that drives an operation. -/
theorem due_of_op {op : BusOp} (h : s.due.op s = some op) :
    (∃ kind a wd k, s.due = .access kind a wd k ∧ op = accessOp s.params kind a wd) ∨
      s.due = .spin ∧ op = spinOp s := by
  cases hd : s.due with
  | access kind a wd k =>
    rw [hd] at h
    exact .inl ⟨kind, a, wd, k, rfl, (Option.some.inj h).symm⟩
  | spin =>
    rw [hd] at h
    exact .inr ⟨rfl, (Option.some.inj h).symm⟩
  | internal k =>
    rw [hd] at h
    cases h

/-- An illegal word latches its code in an open block (R216). -/
theorem rejectWord_faultCode (hf : s.faultCode = 0) : s.rejectWord.faultCode = FaultCode.illegalCmd.code := by
  rw [State.rejectWord, if_neg (not_not.2 hf)]
  rfl

/-- The sentinel is `MOP_NEXT` (R92). -/
theorem mop_eq_of_decodeMop {m : MopWord} (h : decodeMop m = .ok .mopNext) : m = MOP_NEXT :=
  (PortWord.mop.inj (wf_encode_of_decodeMop 0 h).2).symm

/-- What made a step latch a code: an illegal word, a step of the stepper, a command's own fault, or the sentinel's. -/
inductive StepCause (s : State) : FaultCode → Prop
  /-- a command word that decodes to Illegal (R216) -/
  | illegal {w : CmdWord} {rest : List Input} {e : Reject} (hm : s.mode = .idle)
    (hp : s.env.pending = .cmd w :: rest) (hd : decode s.params.deferVW w = .error e) : StepCause s .illegalCmd
  /-- a step of a RUN -/
  | stepper {c : FaultCode} (hm : s.mode = .running) (h : StepperCause s c) : StepCause s c
  /-- a command on the condition of its own fault -/
  | command {w : CmdWord} {rest : List Input} {i : Instr} {c : FaultCode} (hp : s.env.pending = .cmd w :: rest)
    (hd : decode s.params.deferVW w = .ok i) (h : CommandCause s i c) : StepCause s c
  /-- the sentinel micro-op on the condition of NEXTPROG's fault (R153) -/
  | sentinel {rest : List Input} {c : FaultCode} (hp : s.env.pending = .mop MOP_NEXT :: rest)
    (h : CommandCause s .mopNext c) : StepCause s c

/-- A command's own fault sees nothing outside the block but the program store. -/
theorem commandCause_of_withEnv {e : Env} {i : Instr} {c : FaultCode} (he : e.store = s.env.store)
    (h : CommandCause { s with env := e } i c) : CommandCause s i c := by
  cases h with
  | overflow hp hw => exact .overflow hp hw
  | empty hi hr => exact .empty hi hr
  | unterminated hr hl =>
    simp only [State.prog, he] at hl
    exact .unterminated hr hl
  | range h => exact .range h
  | undefined h => exact .undefined h

/-- A step that latches a code has one of the four kinds of causes. -/
theorem stepCause_of_step (hr : NoReset s) (hf : s.faultCode = 0) (hst : step s = .next t) (hft : t.faultCode ≠ 0) :
    ∃ c, StepCause s c ∧ t.faultCode = c.code := by
  cases hm : s.mode with
  | running =>
    by_cases hb : 0 < s.budget
    · cases (step_running hr hm hb).symm.trans hst
      obtain ⟨c, hc, ht⟩ := stepperCause_of_step (s := s.afterSample) hf hft
      exact ⟨c, .stepper hm (stepperCause_of_afterSample hc), ht⟩
    · cases (step_runEnd hr hm (not_lt.1 hb)).symm.trans hst
      exact absurd hf hft
  | idle =>
    obtain ⟨hr', -⟩ | ⟨-, ⟨hm', -⟩ | ⟨hm', -⟩ | ⟨-, -, rfl⟩ | ⟨w, rest, i, -, hp, hd, he⟩ |
      ⟨w, rest, e, -, hp, hd, rfl⟩ | ⟨m, rest, i, -, hp, hd, he⟩ | ⟨m, rest, e, -, -, -, rfl⟩ |
      ⟨pid, ws, rest, -, -, rfl⟩⟩ := step_cases hst
    · exact absurd hr' hr
    · exact nomatch hm.symm.trans hm'
    · exact nomatch hm.symm.trans hm'
    · exact absurd hf hft
    · obtain ⟨c, hc, ht⟩ := commandCause_of_exec (s := s.afterSample.takeCmd w rest) (decode_notKind hd)
        (wf_encode_of_decode hd).1 hf he hft
      exact ⟨c, .command hp hd (commandCause_of_withEnv (e := (s.afterSample.takeCmd w rest).env) rfl hc), ht⟩
    · exact ⟨_, .illegal hm hp hd, rejectWord_faultCode (s := s.afterSample.takeCmd w rest) hf⟩
    · obtain rfl := decodeMop_ok hd
      obtain rfl := mop_eq_of_decodeMop hd
      obtain ⟨c, hc, ht⟩ := commandCause_of_exec (s := s.afterSample.withPending rest) mopNext_notKind rfl hf he hft
      exact ⟨c, .sentinel hp (commandCause_of_withEnv (e := (s.afterSample.withPending rest).env) rfl hc), ht⟩
    · exact absurd hf hft
    · exact absurd hf hft

/-- Settles O49: each kind of cause, with the code it latches, is one of the statement's clauses. -/
theorem everyFaultHasItsCause : Obligations.EveryFaultHasItsCause := by
  intro s t hr hf hst hft
  obtain ⟨c, hc, ht⟩ := stepCause_of_step hr hf hst hft
  cases hc with
  | illegal hm hp hd => exact .inl ⟨ht, hm, _, _, _, hp, hd⟩
  | stepper hm h =>
    cases h with
    | cost hop hc => exact .inr (.inl ⟨ht, hm, _, hc, due_of_op hop⟩)
    | limit hd hl => exact .inr (.inr (.inl ⟨ht, hm, hl, _, hd⟩))
  | command hp hd h =>
    cases h with
    | overflow _ hw => exact .inr (.inr (.inr (.inl ⟨ht, hw, _, _, _, hp, hd⟩)))
    | empty hi hs =>
      refine .inr (.inr (.inr (.inr (.inl ⟨ht, hs, .inl ⟨_, _, hp, ?_⟩⟩))))
      obtain rfl | rfl | rfl := hi
      · exact .inl hd
      · exact .inr hd
      · exact nomatch (wf_encode_of_decode hd).2
    | unterminated _ hl => exact .inr (.inr (.inr (.inr (.inr (.inl ⟨ht, hl, _, _, hp, hd⟩)))))
    | range h => exact .inr (.inr (.inr (.inr (.inr (.inr (.inl ⟨ht, _, _, _, _, hp, hd, h⟩))))))
    | undefined h => exact .inr (.inr (.inr (.inr (.inr (.inr (.inr ⟨ht, h, _, _, hp, hd⟩))))))
  | sentinel hp h =>
    cases h with
    | empty _ hs => exact .inr (.inr (.inr (.inr (.inl ⟨ht, hs, .inr ⟨_, hp⟩⟩))))

/-! ## What no command but RUN touches (R155, R173, R185, R194, R201) -/

/-- When the log alone has changed, and no bus operation was logged, the bus is the same. -/
theorem sameBus_of_log {evs : List Event} (he : t.env = { s.env with log := evs ++ s.env.log })
    (hb : busTrace t.env.log = busTrace s.env.log) : SameBus s t := by
  refine ⟨fun a => ?_, ?_, ?_, ?_, hb⟩ <;> simp only [State.byteAt, he]

/-- Settles O52: the command frame keeps the outside world but its log, and writes `MODE` and `BUDGET` for an accepted
grant alone. -/
theorem auxiliaryCommandsLeaveTheStepper : Obligations.AuxiliaryCommandsLeaveTheStepper := by
  intro s t i hrun hi he
  obtain ⟨hm, hframe⟩ := exec_commandFrame hi he
  obtain ⟨htrace, hflush⟩ := commandFrame_log hframe
  obtain ⟨⟨evs, henv, -⟩, -, ⟨hrp, hspin, hlast, hnone, harch⟩, ⟨hmode, hbudget⟩ | ⟨n, hn, -⟩⟩ := hframe
  · exact ⟨⟨hmode.trans hm.symm, hrp, hbudget, hspin, hlast, hnone, harch⟩, sameBus_of_log henv htrace,
      exec_sameBuild hi he, hflush⟩
  · exact absurd hn (hrun n)

end Sys2Proof.Machine
end

section
/-! PROOFS of the family 42_dispatch (R181, R182): the classifier. What the primary field, the coarse level, the
refinement lookup and the classification answer, one lemma for each clause of the statement. -/

namespace Sys2Proof.Machine

variable {p : Params}

/-! ## The primary field (R181) -/

/-- Each position puts its bit below those of the positions after it, so bit `i` of the number folded from them is
the word's bit at position `i` of the list. -/
theorem testBit_foldr_positions (iw : BitVec 32) {positions : List Nat} {i b : Nat} (h : positions[i]? = some b) :
    (positions.foldr (fun b acc => 2 * acc + (iw.getLsbD b).toNat) 0).testBit i = iw.getLsbD b := by
  induction positions generalizing i with
  | nil => exact nomatch h
  | cons q positions ih =>
    rw [List.foldr_cons, ← Nat.bit_val]
    cases i with
    | zero =>
      obtain rfl : q = b := Option.some.inj h
      exact Nat.testBit_bit_zero ..
    | succ i =>
      rw [Nat.testBit_bit_succ]
      exact ih h

/-- The cut to eight bits keeps the bit of each of the first eight positions. -/
theorem getLsbD_fieldIndex (iw : BitVec 32) {positions : List Nat} {i b : Nat} (hi : i < 8)
    (h : positions[i]? = some b) : (fieldIndex positions iw).getLsbD i = iw.getLsbD b := by
  rw [fieldIndex, BitVec.getLsbD_ofNat, decide_eq_true hi, Bool.true_and, testBit_foldr_positions iw h]

/-! ## The coarse level (R181) -/

theorem coarse_of_first_match {idx : BitVec 8} {before after : List Pattern} {e : Pattern}
    (hp : p.decodePatterns = before ++ e :: after) (hbefore : ∀ f ∈ before, idx &&& f.mask ≠ f.value)
    (he : idx &&& e.mask = e.value) : coarse p idx = e.op := by
  have hfind : p.decodePatterns.find? (fun f => idx &&& f.mask == f.value) = some e :=
    List.find?_eq_some_iff_append.2 ⟨by simpa using he, before, after, hp, by simpa using hbefore⟩
  rw [coarse, hfind]

theorem coarse_of_no_match {idx : BitVec 8} (h : ∀ f ∈ p.decodePatterns, idx &&& f.mask ≠ f.value) :
    coarse p idx = .undefined := by
  have hfind : p.decodePatterns.find? (fun f => idx &&& f.mask == f.value) = none :=
    List.find?_eq_none.2 (by simpa using h)
  rw [coarse, hfind]

/-! ## The refinement (R182) -/

theorem refinement_of_first_entry {c : Op} {cubes : List Cube} {before after : List (Op × List Cube)}
    (hp : p.decodeRefine = before ++ (c, cubes) :: after) (hbefore : ∀ r ∈ before, r.1 ≠ c) :
    refinement p c = some cubes := by
  have hfind : p.decodeRefine.find? (fun r => r.1 == c) = some (c, cubes) :=
    List.find?_eq_some_iff_append.2 ⟨beq_self_eq_true c, before, after, hp, by simpa using hbefore⟩
  rw [refinement, hfind, Option.map_some]

theorem refinement_of_no_entry {c : Op} (h : ∀ r ∈ p.decodeRefine, r.1 ≠ c) : refinement p c = none := by
  have hfind : p.decodeRefine.find? (fun r => r.1 == c) = none := List.find?_eq_none.2 (by simpa using h)
  rw [refinement, hfind, Option.map_none]

theorem refineHolds_iff (cubes : List Cube) (iw : BitVec 32) :
    refineHolds cubes iw = true ↔ ∃ q ∈ cubes, iw &&& q.mask = q.value := by
  simp only [refineHolds, List.any_eq_true, beq_iff_eq]

/-- A class without a refinement is never downgraded; `classify_refined` is the other case. -/
theorem classify_unrefined {iw : BitVec 32} (h : refinement p (coarse p (fieldIndex p.decodeField iw)) = none) :
    classify p iw = coarse p (fieldIndex p.decodeField iw) := by
  simp only [classify, h]

/-- Settles O35: the lemmas above, clause by clause; a list of eight positions has one at index `i` only for
`i < 8`. -/
theorem classifierTwoLevels : Obligations.ClassifierTwoLevels := by
  refine ⟨fun positions iw i b hlen hb => ?_, fun _ _ _ _ _ => coarse_of_first_match, fun _ _ => coarse_of_no_match,
    fun _ _ _ _ _ => refinement_of_first_entry, fun _ _ => refinement_of_no_entry, refineHolds_iff,
    fun _ _ => ⟨classify_unrefined, fun _ => classify_refined⟩⟩
  have hi : i < positions.length := (List.getElem?_eq_some_iff.1 hb).1
  exact getLsbD_fieldIndex iw (hlen ▸ hi) hb

end Sys2Proof.Machine
end

section
/-! PROOFS of the family 43_deferred (R190 to R193): what DVALUE, DADVANCE and DINSERT do in an open idle block, then
how an inserted value travels, by induction on the number of advances. -/

namespace Sys2Proof.Machine

variable {s : State} {v : BitVec 32}

/-! ## The backlog's shift (R191) -/

/-- The shift leaves the fresh slot as the newest. -/
theorem shiftSlots_newest (fresh : DSlot) (l : List DSlot) :
    (shiftSlots fresh l)[l.length - 1]? = some fresh := by
  rw [shiftSlots, ← List.length_tail, List.getElem?_concat_length]

/-! ## The three commands in an open idle block (R190 to R192) -/

/-- The state once DADVANCE has shifted the backlog (R191). -/
def State.advanced (s : State) : State :=
  { s with
    dslots := shiftSlots (DSlot.fresh s.params.deferVW s.draws) s.dslots
    draws := s.draws + 1 }

/-- The state once DINSERT has written the newest slot (R192). -/
def State.inserted (v : BitVec 32) (s : State) : State :=
  { s with dslots := s.dslots.set (s.params.deferD - 1) { valid := true, value := v } }

section OpenIdle

variable (hm : s.mode = .idle) (hf : s.faultCode = 0)
include hm hf

theorem exec_dvalue_valid (hd : s.dslots[0]? = some { valid := true, value := v }) :
    exec .dvalue s = .next (s.respond (v.setWidth 63)) := by
  obtain ⟨t, ht⟩ := exec_idle_next (i := .dvalue) (by intro b; cases b <;> nofun) hm
  obtain ⟨hnone, -⟩ | ⟨u, hu, rfl⟩ := (execDvalue_cases ht).own hf
  · exact nomatch hnone _ hd
  · cases hd.symm.trans hu
    exact ht

theorem exec_dadvance : exec .dadvance s = .next (s.advanced.respond 0) := by
  rw [exec, execDadvance, command_open hm hf, State.advanced]

theorem exec_dinsert (hv : v.toNat < 2 ^ s.params.deferVW) :
    exec (.dinsert v) s = .next ((s.inserted v).respond 0) := by
  have hlegal : deferLegal s.params v = true := decide_eq_true hv
  simp only [exec, execDinsert, command_open hm hf, hlegal, Bool.not_true, Bool.false_eq_true, if_false,
    State.inserted]

end OpenIdle

/-- Settles O39: the answer is the current slot's value, and only the log has changed. -/
theorem dvalueAnswersTheOldest : Obligations.DvalueAnswersTheOldest := by
  intro s v hm hf hd
  exact ⟨_, exec_dvalue_valid hm hf hd, sameBlock_withEnv s _, rfl, rfl, onlyLogs_respond rfl (by decide) v⟩

/-- Settles O40: DADVANCE writes the backlog alone, and the shift's lemmas give its slots. -/
theorem dadvanceShifts : Obligations.DadvanceShifts := by
  intro s hm hf hlen hD
  rw [← hlen] at hD ⊢
  exact ⟨_, exec_dadvance hm hf, shiftSlots_length _ hD, fun i hi => shiftSlots_getElem? _ _ i hi,
    congrArg (Option.map DSlot.valid) (shiftSlots_newest _ _), ⟨rfl, rfl, rfl, rfl, rfl, rfl, rfl⟩,
    ⟨rfl, rfl, rfl, rfl⟩, hf, rfl, rfl, fun _ => rfl⟩

/-- DINSERT's value is in the newest slot (R192). -/
theorem inserted_newest (hlen : s.dslots.length = s.params.deferD) (hD : 1 ≤ s.params.deferD) :
    (s.inserted v).dslots[s.params.deferD - 1]? = some { valid := true, value := v } :=
  List.getElem?_set_self (by omega)

/-- Settles O41: DINSERT writes one slot of the backlog, the newest. -/
theorem dinsertWritesTheNewest : Obligations.DinsertWritesTheNewest := by
  intro s v hm hf hlen hD hv
  exact ⟨_, exec_dinsert hm hf hv, List.length_set.trans hlen, inserted_newest hlen hD,
    fun i hi => List.getElem?_set_ne (by omega), ⟨rfl, rfl, rfl, rfl, rfl, rfl, rfl⟩, ⟨rfl, rfl, rfl, rfl⟩, hf, rfl,
    rfl, rfl, fun _ => rfl⟩

/-! ## An inserted value on its way (R193) -/

/-- Under a low reset line an idle block takes a command word and runs what the word stands for (R14). -/
theorem step_of_encode {i : Instr} {w : CmdWord} {rest : List Input} (hm : s.mode = .idle) (hr : s.env.rst = [])
    (hp : s.env.pending = .cmd w :: rest) (hwf : i.wf s.params.deferVW = true) (he : encode i = .cmd w) :
    step s = exec i (s.takeCmd w rest) := by
  rw [step_of_liveWork_run (rstLow_of_nil hr).noReset
    (liveWork_cmd_ok (s := s.afterSample) hm hp (decode_of_encode hwf he)), afterSample_of_low hr]

/-- An open idle block under a low reset line whose slot `i` holds the inserted value `v`, with `inputs` to take. -/
structure Carries (v : BitVec 32) (i : Nat) (inputs : List Input) (s : State) : Prop where
  mode : s.mode = .idle
  faultCode : s.faultCode = 0
  rst : s.env.rst = []
  pending : s.env.pending = inputs
  slot : s.dslots[i]? = some { valid := true, value := v }

/-- DINSERT puts its value into the newest slot. -/
theorem step_dinsert_carries {rest : List Input} (hm : s.mode = .idle) (hf : s.faultCode = 0) (hr : s.env.rst = [])
    (hlen : s.dslots.length = s.params.deferD) (hD : 1 ≤ s.params.deferD) (hv : v.toNat < 2 ^ s.params.deferVW)
    (hp : s.env.pending = .cmd (format32 0x32 v) :: rest) :
    ∃ t, step s = .next t ∧ Carries v (s.params.deferD - 1) rest t := by
  have hstep := step_of_encode (i := .dinsert v) hm hr hp (decide_eq_true hv) rfl
  exact ⟨_, hstep.trans (exec_dinsert (s := s.takeCmd _ rest) hm hf hv), hm, hf, hr, rfl,
    inserted_newest (s := s.takeCmd _ rest) hlen hD⟩

namespace Carries

/-- DADVANCE moves the value one slot down. -/
theorem advance {i : Nat} {rest : List Input} (h : Carries v (i + 1) (.cmd (formatN 0x31) :: rest) s) :
    ∃ t, step s = .next t ∧ Carries v i rest t := by
  have hi : i + 1 < s.dslots.length := (List.getElem?_eq_some_iff.1 h.slot).1
  have hstep := step_of_encode (i := .dadvance) h.mode h.rst h.pending rfl rfl
  exact ⟨_, hstep.trans (exec_dadvance (s := s.takeCmd _ rest) h.mode h.faultCode), h.mode, h.faultCode, h.rst, rfl,
    (shiftSlots_getElem? _ s.dslots i hi).trans h.slot⟩

/-- `j` advances move the value `j` slots down. -/
theorem advances {i j : Nat} {rest : List Input}
    (h : Carries v (i + j) (List.replicate j (.cmd (formatN 0x31)) ++ rest) s) :
    ∃ t, runSteps j s = .next t ∧ Carries v i rest t := by
  induction j generalizing s with
  | zero => exact ⟨s, rfl, h⟩
  | succ j ih =>
    obtain ⟨u, hu, hcarry⟩ := h.advance
    obtain ⟨t, ht, hend⟩ := ih hcarry
    exact ⟨t, (runSteps_succ hu j).trans ht, hend⟩

/-- In the current slot the value is DVALUE's answer. -/
theorem answer {rest : List Input} (h : Carries v 0 (.cmd (formatN 0x30) :: rest) s) :
    ∃ u, step s = .next u ∧ u.env.log.head? = some (.resp (v.setWidth 64)) ∧ SameBlock s u := by
  have hstep := step_of_encode (i := .dvalue) h.mode h.rst h.pending rfl rfl
  refine ⟨_, hstep.trans (exec_dvalue_valid (s := s.takeCmd _ rest) h.mode h.faultCode h.slot), ?_,
    sameBlock_withEnv s _⟩
  rw [respond_eq, okWord_setWidth (by decide)]
  rfl

end Carries

/-- Settles O42: DINSERT's value starts in the newest slot, `j` advances move it `j` slots down, and after `DEFER_D - 1`
of them it is in the current slot, which DVALUE reads. -/
theorem deferredLatency : Obligations.DeferredLatency := by
  intro s v j rest hm hf hr hlen hD hv hj hp
  obtain ⟨u, hu, hstart⟩ := step_dinsert_carries hm hf hr hlen hD hv hp
  rw [← Nat.sub_add_cancel (Nat.le_sub_one_of_lt hj)] at hstart
  obtain ⟨t, ht, hend⟩ := hstart.advances
  refine ⟨t, (runSteps_succ hu j).trans ht, hend.mode, hend.faultCode, hend.slot, fun hlast => ?_⟩
  rw [← hlast, Nat.sub_self] at hend
  exact hend.answer

end Sys2Proof.Machine
end

section
/-! PROOFS of the family 44_status (R200, R201): where each field stands in the STATUS word, and what STATUS answers. -/

namespace Sys2Proof.Machine

/-! ## The STATUS word (R200) -/

theorem faulted_eq_decide (s : State) : s.faulted = decide (s.faultCode ≠ 0) := (decide_not ..).symm

theorem occupied_eq_decide (s : State) (k : BitVec 2) : s.occupied k = decide (s.slotAt k ≠ 0) := (decide_not ..).symm

/-- The flags: a bit of an append is a bit of its low part or, past that, of its high part. -/
theorem statusWord_flags (s : State) :
    s.statusWord.getLsbD 0 = s.inSpin ∧ s.statusWord.getLsbD 1 = s.faulted ∧
      s.statusWord.getLsbD 20 = s.occupied 0 ∧ s.statusWord.getLsbD 21 = s.occupied 1 ∧
      s.statusWord.getLsbD 22 = s.occupied 2 ∧ s.statusWord.getLsbD 23 = s.occupied 3 := by
  simp (decide := true) only [State.statusWord, State.occ, BitVec.getLsbD_append, BitVec.getLsbD_ofBool, if_true,
    if_false, Nat.reduceSub, decide_true, Bool.true_and, and_self]

/-- The wider fields and the reserved bits: each is the low part of what is left above the fields below it. -/
theorem statusWord_fields (s : State) :
    s.statusWord.extractLsb' 2 6 = 0 ∧ s.statusWord.extractLsb' 8 8 = s.faultCode ∧
      s.statusWord.extractLsb' 16 2 = s.ridx ∧ s.statusWord.extractLsb' 18 2 = s.widx ∧
      s.statusWord.extractLsb' 24 40 = 0 := by
  simp (disch := decide) only [State.statusWord, BitVec.extractLsb'_append_eq_of_le,
    BitVec.extractLsb'_append_eq_right, BitVec.extractLsb'_zero, Nat.reduceSub, BitVec.ofNat_eq_ofNat, and_self]

/-- OCC has a bit for each slot, slot 0's lowest. -/
theorem statusWord_occ (s : State) (k : BitVec 2) : s.statusWord.getLsbD (20 + k.toNat) = s.occupied k := by
  obtain ⟨-, -, h0, h1, h2, h3⟩ := statusWord_flags s
  have hk : k = 0 ∨ k = 1 ∨ k = 2 ∨ k = 3 := by revert k; decide
  obtain rfl | rfl | rfl | rfl := hk
  exacts [h0, h1, h2, h3]

/-! ## STATUS (R201) -/

/-- STATUS has no gate: it answers the word of an idle block, faulted or not. -/
theorem exec_status {s : State} (hm : s.mode = .idle) :
    exec .status s = .next (s.respond (s.statusWord.setWidth 63)) := by
  simp only [exec, execStatus, hm]

/-- Settles O44: only the log has changed, and the answer is the STATUS word zero-extended, which leaves every bit of
it in place. -/
theorem statusWordFields : Obligations.StatusWordFields := by
  intro s hm
  obtain ⟨hspin, hfaulted, -⟩ := statusWord_flags s
  obtain ⟨hlow, hcode, hridx, hwidx, hhigh⟩ := statusWord_fields s
  exact ⟨_, s.statusWord.setWidth 64, exec_status hm, sameBlock_withEnv s _, rfl, rfl,
    onlyLogs_respond rfl (by decide) _, hspin, hfaulted.trans (faulted_eq_decide s), hlow, hcode, hridx, hwidx,
    fun k => (statusWord_occ s k).trans (occupied_eq_decide s k), hhigh⟩

end Sys2Proof.Machine
end

section
/-! PROOFS of the family 60_exceptions (R85, R213 to R219, R233): an illegal word and the stepper's faults, the gate of a
faulted block, fault entry over every step, and that a fault lasts. First what an idle block does with its next input:
taking it disturbs neither the block nor the bus. -/

namespace Sys2Proof.Machine

variable {s t u : State}

/-! ## The stepper's own faults (R218, R219) -/

theorem exec_spin (hm : s.mode = .running) (hd : s.due = .spin) : exec .busReady s = .next s.spinStep := by
  simp only [exec, execBusReady, hm, hd]

theorem exec_internal {k : Arch → Arch × Fin (s.seq.lastRp + 1)} (hm : s.mode = .running) (hd : s.due = .internal k) :
    exec .busNone s = .next (s.intStep k) := by
  simp only [exec, execBusNone, hm, hd]

/-- Outside the block, fault entry only answers. -/
theorem raise_env (c : FaultCode) (s : State) :
    (s.raise c).env = { s.env with log := .resp (errWord c.code) :: s.env.log } := rfl

/-- Settles O27: the fault is raised in the state the handler has acted on, which differs from `s` outside the block
alone. -/
theorem costZeroFaults : Obligations.CostZeroFaults := by
  refine ⟨fun s kind a wd k hm hd hc => ?_, fun s hm hd hc => ?_⟩
  · refine ⟨_, ?_, faultEntry_raise .costInvalid (s.issue (accessOp s.params kind a wd)), raise_env .costInvalid _⟩
    rw [exec_access hm hd, busStep_eq, if_pos hc]
  · refine ⟨_, ?_, faultEntry_raise .costInvalid (s.issue (spinOp s)), raise_env .costInvalid _⟩
    rw [exec_spin hm hd, spinStep_eq, if_pos hc]

/-- Settles O28: at the limit the internal step is fault entry. -/
theorem internalStepAtTheLimitFaults : Obligations.InternalStepAtTheLimitFaults := by
  intro s k hm hd hl
  refine ⟨_, ?_, faultEntry_raise .noneLimit s, onlyLogs_raise .noneLimit s⟩
  rw [exec_internal hm hd, intStep_eq, if_pos hl]

/-! ## Illegal words and the gate (R214, R216) -/

theorem rejectWord_open (hf : s.faultCode = 0) : s.rejectWord = s.raise .illegalCmd := if_neg (not_not.2 hf)

theorem rejectWord_gated (hf : s.faultCode ≠ 0) : s.rejectWord = s.respondFault := if_pos hf

/-- An illegal word is taken from the port and rejected. -/
theorem step_illegal {w : CmdWord} {rest : List Input} {r : Reject} (hr : NoReset s) (hm : s.mode = .idle)
    (hp : s.env.pending = .cmd w :: rest) (hd : decode s.params.deferVW w = .error r) :
    step s = .next (s.afterSample.takeCmd w rest).rejectWord :=
  step_of_liveWork_done hr (liveWork_cmd_error hm hp hd)

/-- A legal word is taken from the port and runs. -/
theorem step_legal {w : CmdWord} {rest : List Input} {i : Instr} (hr : NoReset s) (hm : s.mode = .idle)
    (hp : s.env.pending = .cmd w :: rest) (hd : decode s.params.deferVW w = .ok i) :
    step s = exec i (s.afterSample.takeCmd w rest) :=
  step_of_liveWork_run hr (liveWork_cmd_ok hm hp hd)

/-- The gate refuses every command but STATUS, and the sentinel (R214). -/
theorem exec_gated {i : Instr} (hi : ∀ b, i ≠ instrOfKind b) (hs : i ≠ .status) (hm : s.mode = .idle)
    (hf : s.faultCode ≠ 0) : exec i s = .next s.respondFault := by
  obtain rfl | ⟨act, hact⟩ := exec_status_or_command hi
  · exact absurd rfl hs
  · exact (hact s).trans (command_gated hm hf)

/-- Settles O46: with the gate open, rejecting the word is fault entry in the state that has taken it. -/
theorem illegalWordFaults : Obligations.IllegalWordFaults := by
  intro s w rest r hr hm hf hp hd
  have hreject : (s.afterSample.takeCmd w rest).rejectWord = (s.afterSample.takeCmd w rest).raise .illegalCmd :=
    rejectWord_open hf
  exact ⟨_, (step_illegal hr hm hp hd).trans (congrArg _ hreject), faultEntry_raise .illegalCmd _, rfl,
    congrArg Env.log (raise_env .illegalCmd _),
    ⟨fun _ => rfl, rfl, rfl, rfl, rfl⟩, rfl⟩

/-- Settles O47: an illegal word and a legal one but STATUS meet the gate; STATUS has none. -/
theorem gateRefusesAllButStatus : Obligations.GateRefusesAllButStatus := by
  intro s w rest hr hm hf hp
  have hm' : (s.afterSample.takeCmd w rest).mode = .idle := hm
  have hf' : (s.afterSample.takeCmd w rest).faultCode ≠ 0 := hf
  refine ⟨fun hne => ?_, fun hd => (step_legal hr hm hp hd).trans (exec_status hm')⟩
  cases hd : decode s.params.deferVW w with
  | error r => exact (step_illegal hr hm hp hd).trans (congrArg _ (rejectWord_gated hf'))
  | ok i =>
    have hs : i ≠ .status := fun h => hne (hd.trans (congrArg _ h))
    exact (step_legal hr hm hp hd).trans (exec_gated (decode_notKind hd) hs hm' hf')

/-! ## The idle block and its next input (R14, R233) -/

/-- Settles O7: with no input to take, the step does no more than use up its sample of the reset line. -/
theorem idleBlockHoldsItsState : Obligations.IdleBlockHoldsItsState := fun _ hm hp hr => step_idleEmpty hr hm hp

/-- The whole state of the block and the bus are as they were, and no flush and no perform event was driven. -/
structure Undisturbed (s t : State) : Prop where
  block : SameBlock s t
  bus : SameBus s t
  flush : flushCount t.env.log = flushCount s.env.log
  perform : performTrace t.env.log = performTrace s.env.log

namespace Undisturbed

theorem mode (h : Undisturbed s t) : t.mode = s.mode := by
  obtain ⟨⟨⟨hmode, -⟩, -⟩, -⟩ := h
  exact hmode

theorem faultCode (h : Undisturbed s t) : t.faultCode = s.faultCode := by
  obtain ⟨⟨-, -, -, hcode⟩, -⟩ := h
  exact hcode

theorem trans (h : Undisturbed s u) (h' : Undisturbed u t) : Undisturbed s t where
  block := by
    have hsu := h.block
    have hut := h'.block
    simp_all only [SameBlock, SameStepper, SameScheduler, SameDeferred, and_self]
  bus := by
    have hsu := h.bus
    have hut := h'.bus
    simp_all only [SameBus, implies_true, and_self]
  flush := h'.flush.trans h.flush
  perform := h'.perform.trans h.perform

end Undisturbed

theorem undisturbed_refl (s : State) : Undisturbed s s :=
  ⟨sameBlock_withEnv s s.env, ⟨fun _ => rfl, rfl, rfl, rfl, rfl⟩, rfl, rfl⟩

/-- A response disturbs nothing. -/
theorem undisturbed_resp (w : CmdWord) (s : State) : Undisturbed s (s.emit (.resp w)) :=
  ⟨sameBlock_withEnv s _, ⟨fun _ => rfl, rfl, rfl, rfl, rfl⟩, flushCount_resp w _, rfl⟩

theorem undisturbed_afterSample (s : State) : Undisturbed s s.afterSample :=
  ⟨sameBlock_withEnv s _, ⟨fun _ => rfl, rfl, rfl, rfl, rfl⟩, rfl, rfl⟩

theorem undisturbed_takeCmd (w : CmdWord) (rest : List Input) (s : State) :
    Undisturbed s (s.afterSample.takeCmd w rest) :=
  ⟨sameBlock_withEnv s _, ⟨fun _ => rfl, rfl, rfl, rfl, rfl⟩, flushCount_cmd w _, rfl⟩

theorem undisturbed_withPending (rest : List Input) (s : State) : Undisturbed s (s.afterSample.withPending rest) :=
  ⟨sameBlock_withEnv s _, ⟨fun _ => rfl, rfl, rfl, rfl, rfl⟩, rfl, rfl⟩

theorem undisturbed_defineProg (pid : Pid) (ws : List MopWord) (rest : List Input) (s : State) :
    Undisturbed s ((s.afterSample.withPending rest).defineProg pid ws) :=
  ⟨sameBlock_withEnv s _, ⟨fun _ => rfl, rfl, rfl, rfl, rfl⟩, rfl, rfl⟩

/-- An idle block takes its input without a disturbance; then it is done, rejects the word, or runs a command or the
sentinel. -/
theorem step_idle_cases (hr : NoReset s) (hm : s.mode = .idle) (h : step s = .next t) :
    ∃ u, Undisturbed s u ∧ (t = u ∨ t = u.rejectWord ∨
      ∃ i, (∀ b, i ≠ instrOfKind b) ∧ i.wf u.params.deferVW = true ∧ exec i u = .next t) := by
  obtain ⟨hr', -⟩ | ⟨-, ⟨hm', -⟩ | ⟨hm', -⟩ | ⟨-, -, rfl⟩ | ⟨w, rest, i, -, -, hd, he⟩ | ⟨w, rest, e, -, -, -, rfl⟩ |
    ⟨m, rest, i, -, -, hd, he⟩ | ⟨m, rest, e, -, -, -, rfl⟩ | ⟨pid, ws, rest, -, -, rfl⟩⟩ := step_cases h
  · exact absurd hr' hr
  · exact nomatch hm.symm.trans hm'
  · exact nomatch hm.symm.trans hm'
  · exact ⟨_, undisturbed_afterSample s, .inl rfl⟩
  · exact ⟨_, undisturbed_takeCmd w rest s, .inr (.inr ⟨i, decode_notKind hd, (wf_encode_of_decode hd).1, he⟩)⟩
  · exact ⟨_, undisturbed_takeCmd w rest s, .inr (.inl rfl)⟩
  · obtain rfl := decodeMop_ok hd
    exact ⟨_, undisturbed_withPending rest s, .inr (.inr ⟨_, mopNext_notKind, rfl, he⟩)⟩
  · exact ⟨_, undisturbed_withPending rest s, .inl rfl⟩
  · exact ⟨_, undisturbed_defineProg pid ws rest s, .inl rfl⟩

/-! ## Fault entry is precise (R213) -/

/-- What a step that latches a fault leaves of `s`. -/
def PreciseFault (s t : State) : Prop :=
  t.mode = .idle ∧ SamePosition s t ∧ SameScheduler s t ∧ SameDeferred s t ∧
    t.env.log.head? = some (.resp (errWord t.faultCode)) ∧ flushCount t.env.log = flushCount s.env.log ∧
    performTrace t.env.log = performTrace s.env.log

/-- Fault entry is precise where nothing of the block has changed before it. -/
theorem preciseFault_raise (c : FaultCode) (hb : SameBlock s u) (hflush : flushCount u.env.log = flushCount s.env.log)
    (hperform : performTrace u.env.log = performTrace s.env.log) : PreciseFault s (u.raise c) := by
  obtain ⟨⟨-, hpos⟩, hsched, hdefer, -⟩ := hb
  exact ⟨rfl, hpos, hsched, hdefer, rfl, (flushCount_resp _ _).trans hflush, hperform⟩

/-- The stepper's faults are precise: before a cost of 0 faults, the block has issued its operation and no more. -/
theorem Stepped.preciseFault (h : Stepped s t) (hf : s.faultCode = 0) (hft : t.faultCode ≠ 0) : PreciseFault s t := by
  cases h with
  | charged h => exact absurd (h.faultCode.trans hf) hft
  | counted h => exact absurd (h.faultCode.trans hf) hft
  | costFault op _ => exact preciseFault_raise _ (sameBlock_withEnv s _) (flushCount_bus op _ _) rfl
  | limitFault => exact preciseFault_raise _ (sameBlock_withEnv s s.env) rfl rfl

/-- Settles O48: a step that latches a fault is fault entry, in the state an operation or an input alone has changed. -/
theorem faultsArePrecise : Obligations.FaultsArePrecise := by
  intro s t hr hf hst hft
  cases hm : s.mode with
  | running =>
    by_cases hb : 0 < s.budget
    · cases (step_running hr hm hb).symm.trans hst
      exact (stepped_stepperStep s.afterSample).preciseFault hf hft
    · cases (step_runEnd hr hm (not_lt.1 hb)).symm.trans hst
      exact absurd hf hft
  | idle =>
    obtain ⟨u, hu, hcases⟩ := step_idle_cases hr hm hst
    have hfu : u.faultCode = 0 := hu.faultCode.trans hf
    have hprecise (c : FaultCode) : PreciseFault s (u.raise c) := preciseFault_raise c hu.block hu.flush hu.perform
    obtain rfl | rfl | ⟨i, hi, hwf, he⟩ := hcases
    · exact absurd hfu hft
    · rw [rejectWord_open hfu]
      exact hprecise .illegalCmd
    · obtain ⟨c, hc, -⟩ := commandCause_of_exec hi hwf hfu he hft
      cases (exec_of_commandCause hc (hu.mode.trans hm) hfu).symm.trans he
      exact hprecise c

/-! ## A fault lasts until a reset (R215) -/

/-- A faulted idle block only answers: with the STATUS word, or with the latched code. -/
theorem exec_faulted_undisturbed {i : Instr} (hi : ∀ b, i ≠ instrOfKind b) (hm : s.mode = .idle) (hf : s.faultCode ≠ 0)
    (h : exec i s = .next t) : Undisturbed s t := by
  by_cases hs : i = .status
  · subst hs
    cases (exec_status hm).symm.trans h
    exact undisturbed_resp _ s
  · cases (exec_gated hi hs hm hf).symm.trans h
    exact undisturbed_resp _ s

theorem step_faulted_undisturbed (hr : NoReset s) (hm : s.mode = .idle) (hf : s.faultCode ≠ 0)
    (h : step s = .next t) : Undisturbed s t := by
  obtain ⟨u, hu, hcases⟩ := step_idle_cases hr hm h
  have hfu : u.faultCode ≠ 0 := fun h0 => hf (hu.faultCode.symm.trans h0)
  obtain rfl | rfl | ⟨i, hi, -, he⟩ := hcases
  · exact hu
  · rw [rejectWord_gated hfu]
    exact hu.trans (undisturbed_resp _ u)
  · exact hu.trans (exec_faulted_undisturbed hi (hu.mode.trans hm) hfu he)

theorem runSteps_faulted_undisturbed {k : Nat} (hlow : RstLow s) (hm : s.mode = .idle) (hf : s.faultCode ≠ 0)
    (h : runSteps k s = .next t) : Undisturbed s t := by
  induction k generalizing s with
  | zero =>
    cases h
    exact undisturbed_refl t
  | succ k ih =>
    obtain ⟨u, hu, hk⟩ := runSteps_succ_cases h
    have hsu : Undisturbed s u := step_faulted_undisturbed hlow.noReset hm hf hu
    exact hsu.trans (ih (hlow.step hu) (hsu.mode.trans hm) (hsu.faultCode ▸ hf) hk)

/-- Settles O50: an undisturbed step leaves the block idle and faulted, so every further step is undisturbed too. -/
theorem faultLastsUntilReset : Obligations.FaultLastsUntilReset := by
  intro k s t hm hf hlow h
  obtain ⟨hblock, hbus, hflush, hperform⟩ := runSteps_faulted_undisturbed hlow hm hf h
  exact ⟨hblock, hbus, hflush, hperform⟩

end Sys2Proof.Machine
end

section
/-! PROOFS of the family 70_reset_and_hazards (R21 to R31, R154, R240): what reset writes, and that it sets up the
invariant from nothing but the parameters' constraints and a well-formed outside world. -/

namespace Sys2Proof.Machine

/-! ## What reset writes (R240) -/

/-- No program is outstanding after a reset. -/
@[simp] theorem slotAt_resetBlock (s : State) (i : BitVec 2) : s.resetBlock.slotAt i = 0 := by
  have hzero : ∀ j : BitVec 2, (#v[0, 0, 0, 0] : Vector Pid 4)[j.toNat]'j.isLt = 0 := by decide
  exact hzero i

theorem resetBlock_dslots_length (s : State) : s.resetBlock.dslots.length = s.params.deferD := freshSlots_length _ _ _

theorem resetBlock_dslots_invalid (s : State) : ∀ d ∈ s.resetBlock.dslots, d.valid = false :=
  fun _ hd => (mem_freshSlots hd).1

/-- An asserted sample makes the whole step a reset, whatever the mode and the fault code. -/
theorem step_reset {s : State} (hr : s.env.rst.head? = some true) : step s = .next s.afterSample.resetBlock :=
  step_of_done (work_reset hr)

/-- Settles O51: the step is the reset of the block after the sample, which sets each element by its definition; the
slots and the backlog are read through their own laws. -/
theorem resetSetsEveryElement : Obligations.ResetSetsEveryElement := by
  intro s hr
  have hslots : ∀ k, s.afterSample.resetBlock.slotAt k = 0 := slotAt_resetBlock _
  have hdepth : s.afterSample.resetBlock.dslots.length = s.params.deferD := resetBlock_dslots_length _
  have hinvalid := resetBlock_dslots_invalid s.afterSample
  exact ⟨_, step_reset hr, rfl, rfl, rfl, rfl, rfl, rfl, rfl, hslots, rfl, rfl, rfl, hdepth, hinvalid, rfl, rfl, rfl⟩

/-! ## The invariant right after reset (R21, R22, R154, R240) -/

/-- The parameters the machine is built with meet the constraints: the draw `LAST_ADDR_RESET` is cut to `ADDR_W`
bits, and the classifier's tables are REFDEC's. The open sequencer is under no constraint. -/
theorem paramsOk_defaultParams : ParamsOk defaultParams where
  lastAddr := Nat.mod_lt _ (Nat.two_pow_pos 16)
  dispatch := le_refl 2048
  convert := rfl
  depth := one_le_two
  width := by decide
  field := by decide
  zeroIsAnd := by decide
  multiply := by decide
  outside := by decide
  codes := by decide

/-- Reset sets up the invariant in any outside world that is well formed, whatever the block held before. -/
theorem inv_resetBlock_withEnv {s : State} {e : Env} (hp : ParamsOk s.params) (hmem : Memory.wf e.mem)
    (hstore : Store.wf e.store) (hpending : ∀ x ∈ e.pending, x.Ok) : State.Inv { s.resetBlock with env := e } where
  params := hp
  rp := Nat.succ_pos _
  lastAddr := hp.lastAddr
  noneRun := Nat.zero_le _
  budgetLow := show -(2 ^ 16 - 2) ≤ (0 : Int) by decide
  budgetHigh := show (0 : Int) ≤ 2 ^ 31 - 1 by decide
  budgetIdle := fun _ _ => le_refl (0 : Int)
  faultIdle := fun _ => rfl
  faultCode := Nat.zero_le _
  ring := ringOk_resetBlock s
  stepIdle := fun _ => rfl
  depth := resetBlock_dslots_length s
  values := fun _ hd => (mem_freshSlots hd).2
  mem := hmem
  store := hstore
  pending := hpending

/-- A store that defines no program is in form. -/
theorem store_wf_nil : Store.wf [] := ⟨⟨List.Pairwise.nil, nofun⟩, nofun⟩

/-- Settles O9: the machine after reset is the block after a reset in a world where nothing waits and nothing is
defined. -/
theorem invariantHoldsAtReset : Obligations.InvariantHoldsAtReset := by
  unfold Obligations.InvariantHoldsAtReset
  rw [reset_is_resetBlock]
  exact inv_resetBlock_withEnv paramsOk_defaultParams reset_memory_wf store_wf_nil nofun

end Sys2Proof.Machine
end
